-- ==== Sys2Proof/Word.lean ====
section
/-!
DEFINITION. The words of the BMU: the widths the spec fixes (00_scope.md R7, R8), as bit vectors with bit 0
the least significant.
-/

namespace Sys2Proof

/-- A 32-bit half of a Feistel word, or a sub-key (43_feistel.md R132). -/
abbrev Half := BitVec 32

/-- A 64-bit source word, lane, `DIN` or `DOUT` (R7). -/
abbrev Word := BitVec 64

/-- The contents of a wide register, 512 bits (R7, R21). -/
abbrev Wide := BitVec 512

/-- A 32-bit command word (R57). -/
abbrev CmdWord := BitVec 32

/-- The number of a wide register, 0 to 7 (R21, R58). -/
abbrev RegNum := Fin 8

/-- The number of a 64-bit lane of a wide register, 0 to 7 (R9, R21). -/
abbrev LaneNum := Fin 8

end Sys2Proof
end

