-- ==== Sys2Proof/Syntax.lean ====
section
/-!
DEFINITION. The commands of the BMU: one constructor per row of spec/opcode_table.json (30_encoding.md R63).
-/

namespace Sys2Proof

/-- The operating width selected by the field `ws` (R57): `N = 64 << ws`. -/
inductive Width where
  | w64 | w128 | w256 | w512
deriving DecidableEq, Repr

/-- The 26 commands. Immediates are unsigned numbers used as they stand (R59); `Instr.WellFormed` bounds them to
the ten bits of the field. -/
inductive Instr where
  /-- R150 -/
  | nop
  /-- R151 -/
  | ldz (rd : RegNum)
  /-- R152 -/
  | wrl (rd : RegNum) (lane : LaneNum)
  /-- R153 -/
  | rdl (rs1 : RegNum) (lane : LaneNum)
  /-- R154 -/
  | rdcsr (rd : RegNum) (csr : Nat)
  /-- R155 -/
  | clrf
  /-- R80 -/
  | popcnt (ws : Width) (rd rs1 : RegNum)
  /-- R81 -/
  | tzcnt (ws : Width) (rd rs1 : RegNum)
  /-- R82 -/
  | pext (ws : Width) (rd rs1 rs2 : RegNum) (budget : Nat)
  /-- R83 -/
  | pdep (ws : Width) (rd rs1 rs2 : RegNum) (budget : Nat)
  /-- R96 -/
  | trunc (rd : RegNum) (n : Nat)
  /-- R97 -/
  | shift (rd : RegNum) (n : Nat)
  /-- R98, target width 8 -/
  | mext8 (rd rs2 : RegNum)
  /-- R98, target width 16 -/
  | mext16 (rd rs2 : RegNum)
  /-- R98, target width 32 -/
  | mext32 (rd rs2 : RegNum)
  /-- R98, target width 63 -/
  | mext63 (rd rs2 : RegNum)
  /-- R100 -/
  | sponge (rd : RegNum) (width : Nat)
  /-- R103, R104 -/
  | construct (rd rs2 : RegNum) (totalBits : Nat)
  /-- R106, two parts -/
  | slice2 (rd rs1 : RegNum)
  /-- R106, four parts -/
  | slice4 (rd rs1 : RegNum)
  /-- R106, eight parts -/
  | slice8 (rd rs1 : RegNum)
  /-- R116 -/
  | concat (ws : Width) (rd : RegNum)
  /-- R118 -/
  | mixexp (ws : Width) (rd : RegNum)
  /-- R120 -/
  | spread (ws : Width) (rd rs2 : RegNum)
  /-- R131 -/
  | fseed
  /-- R133 -/
  | fblk (rd : RegNum)
deriving DecidableEq, Repr

/-- A command as the host presents it: the command word `CW` and the data-in value `DIN` (R55). -/
structure Command where
  cw : CmdWord
  din : Word
deriving DecidableEq, Repr

end Sys2Proof
end

