-- ==== Sys2Proof/WellFormed.lean ====
section
/-!
DEFINITION. Which terms of `Instr` are commands an encoding exists for: the immediate fits its ten bits
(30_encoding.md R57, R59). Registers, lanes and widths are bounded by their types. Values inside the ten bits that
a command refuses (a TRUNC count of 64, a CSR number of 8) are well-formed: they fault when they run (R59).
-/

namespace Sys2Proof

/-- The number of values of the ten-bit field `imm` (R57, R59). -/
abbrev immLimit : Nat := 1024

/-- The immediate of a command, 0 where the command has none; the lane number of WRL and RDL stands in the low
three bits of the field (R59). -/
def Instr.imm : Instr → Nat
  | .nop => 0
  | .ldz _ => 0
  | .wrl _ lane => lane.val
  | .rdl _ lane => lane.val
  | .rdcsr _ csr => csr
  | .clrf => 0
  | .popcnt _ _ _ => 0
  | .tzcnt _ _ _ => 0
  | .pext _ _ _ _ budget => budget
  | .pdep _ _ _ _ budget => budget
  | .trunc _ n => n
  | .shift _ n => n
  | .mext8 _ _ => 0
  | .mext16 _ _ => 0
  | .mext32 _ _ => 0
  | .mext63 _ _ => 0
  | .sponge _ width => width
  | .construct _ _ totalBits => totalBits
  | .slice2 _ _ => 0
  | .slice4 _ _ => 0
  | .slice8 _ _ => 0
  | .concat _ _ => 0
  | .mixexp _ _ => 0
  | .spread _ _ _ => 0
  | .fseed => 0
  | .fblk _ => 0

/-- A command that can be encoded: its immediate is a ten-bit number (R59). -/
abbrev Instr.WellFormed (i : Instr) : Prop := i.imm < immLimit

end Sys2Proof
end

