-- ==== Sys2Proof/Decode.lean ====
section
/-!
DEFINITION. The decoder and the encoder of the command word (30_encoding.md R57, R62 to R66): the opcode map as
a list of rows with the masks and patterns of R63, and the field layout of R57. Decoding is total: a word that
matches no row is rejected, with the name of what R65 finds wrong with it.
-/

namespace Sys2Proof

/-! ### Fields of the command word (R57) -/

/-- The code of a width in the field `ws` (R57): 0, 1, 2, 3. -/
def wsCode : Width → Nat
  | .w64 => 0
  | .w128 => 1
  | .w256 => 2
  | .w512 => 3

/-- The width a two-bit `ws` selects (R57). -/
def wsOfCode : Nat → Width
  | 0 => .w64
  | 1 => .w128
  | 2 => .w256
  | _ => .w512

/-- `op`, bits 7:0. -/
def fieldOp (cw : CmdWord) : Nat := (cw.extractLsb' 0 8).toNat
/-- `ws`, bits 9:8. -/
def fieldWs (cw : CmdWord) : Width := wsOfCode (cw.extractLsb' 8 2).toNat
/-- `rd`, bits 12:10. -/
def fieldRd (cw : CmdWord) : RegNum := (cw.extractLsb' 10 3).toFin
/-- `rs1`, bits 15:13. -/
def fieldRs1 (cw : CmdWord) : RegNum := (cw.extractLsb' 13 3).toFin
/-- `rs2`, bits 18:16. -/
def fieldRs2 (cw : CmdWord) : RegNum := (cw.extractLsb' 16 3).toFin
/-- `imm`, bits 28:19, unsigned (R59). -/
def fieldImm (cw : CmdWord) : Nat := (cw.extractLsb' 19 10).toNat
/-- The lane number of WRL and RDL, `imm[2:0]` (R59). -/
def fieldLane (cw : CmdWord) : LaneNum := (cw.extractLsb' 19 3).toFin
/-- `rsv`, bits 31:29. -/
def fieldRsv (cw : CmdWord) : Nat := (cw.extractLsb' 29 3).toNat

/-! ### The opcode map (R63) -/

/-- A row of the opcode map: a word is this row's command when `CW & mask = pat` (R62). -/
structure OpRow where
  name : String
  pat : CmdWord
  mask : CmdWord
  build : CmdWord → Instr

/-- The rows of the system commands (44_system.md). -/
def rowsSystem : List OpRow :=
  [ ⟨"NOP", 0x00000000, 0xFFFFFFFF, fun _ => .nop⟩,
    ⟨"LDZ", 0x00000001, 0xFFFFE3FF, fun w => .ldz (fieldRd w)⟩,
    ⟨"WRL", 0x00000002, 0xFFC7E3FF, fun w => .wrl (fieldRd w) (fieldLane w)⟩,
    ⟨"RDL", 0x00000003, 0xFFC71FFF, fun w => .rdl (fieldRs1 w) (fieldLane w)⟩,
    ⟨"RDCSR", 0x00000004, 0xE007E3FF, fun w => .rdcsr (fieldRd w) (fieldImm w)⟩,
    ⟨"CLRF", 0x00000005, 0xFFFFFFFF, fun _ => .clrf⟩ ]

/-- The rows of the BitMath commands (40_bitmath.md). -/
def rowsBitMath : List OpRow :=
  [ ⟨"POPCNT", 0x00000010, 0xFFFF00FF, fun w => .popcnt (fieldWs w) (fieldRd w) (fieldRs1 w)⟩,
    ⟨"TZCNT", 0x00000011, 0xFFFF00FF, fun w => .tzcnt (fieldWs w) (fieldRd w) (fieldRs1 w)⟩,
    ⟨"PEXT", 0x00000012, 0xE00000FF,
      fun w => .pext (fieldWs w) (fieldRd w) (fieldRs1 w) (fieldRs2 w) (fieldImm w)⟩,
    ⟨"PDEP", 0x00000013, 0xE00000FF,
      fun w => .pdep (fieldWs w) (fieldRd w) (fieldRs1 w) (fieldRs2 w) (fieldImm w)⟩ ]

/-- The rows of the Narrower commands (41_narrower.md). -/
def rowsNarrower : List OpRow :=
  [ ⟨"TRUNC", 0x00000020, 0xE007E3FF, fun w => .trunc (fieldRd w) (fieldImm w)⟩,
    ⟨"SHIFT", 0x00000021, 0xE007E3FF, fun w => .shift (fieldRd w) (fieldImm w)⟩,
    ⟨"MEXT8", 0x00000022, 0xFFF8E3FF, fun w => .mext8 (fieldRd w) (fieldRs2 w)⟩,
    ⟨"MEXT16", 0x00000122, 0xFFF8E3FF, fun w => .mext16 (fieldRd w) (fieldRs2 w)⟩,
    ⟨"MEXT32", 0x00000222, 0xFFF8E3FF, fun w => .mext32 (fieldRd w) (fieldRs2 w)⟩,
    ⟨"MEXT63", 0x00000322, 0xFFF8E3FF, fun w => .mext63 (fieldRd w) (fieldRs2 w)⟩,
    ⟨"SPONGE", 0x00000023, 0xE007E3FF, fun w => .sponge (fieldRd w) (fieldImm w)⟩,
    ⟨"CONSTRUCT", 0x00000024, 0xE000E3FF, fun w => .construct (fieldRd w) (fieldRs2 w) (fieldImm w)⟩,
    ⟨"SLICE2", 0x00000125, 0xFFFF03FF, fun w => .slice2 (fieldRd w) (fieldRs1 w)⟩,
    ⟨"SLICE4", 0x00000225, 0xFFFF03FF, fun w => .slice4 (fieldRd w) (fieldRs1 w)⟩,
    ⟨"SLICE8", 0x00000325, 0xFFFF03FF, fun w => .slice8 (fieldRd w) (fieldRs1 w)⟩ ]

/-- The rows of the Widener commands and of the Feistel stream (42_widener.md, 43_feistel.md). -/
def rowsWidener : List OpRow :=
  [ ⟨"CONCAT", 0x00000030, 0xFFFFE0FF, fun w => .concat (fieldWs w) (fieldRd w)⟩,
    ⟨"MIXEXP", 0x00000031, 0xFFFFE0FF, fun w => .mixexp (fieldWs w) (fieldRd w)⟩,
    ⟨"SPREAD", 0x00000032, 0xFFF8E0FF, fun w => .spread (fieldWs w) (fieldRd w) (fieldRs2 w)⟩,
    ⟨"FSEED", 0x00000038, 0xFFFFFFFF, fun _ => .fseed⟩,
    ⟨"FBLK", 0x00000039, 0xFFFFE3FF, fun w => .fblk (fieldRd w)⟩ ]

/-- The opcode map of R63, in its order. -/
def opRows : List OpRow := rowsSystem ++ rowsBitMath ++ rowsNarrower ++ rowsWidener

/-- Whether a word is the command of a row (R62). -/
def OpRow.hits (r : OpRow) (cw : CmdWord) : Bool := cw &&& r.mask == r.pat

/-! ### Decoding -/

/-- What R65 finds wrong with a word that matches no row. DESIGN CHOICE (log 14; safe): the names are the
model's; every one of them is the same fault IllegalCommand. -/
inductive DecodeError where
  /-- `op` is none of the 21 values of R63. -/
  | unassignedOpcode
  /-- A bit of `rsv` is set (R64). -/
  | reservedBits
  /-- `op = 0x25` with `ws = 0` (R63, R65). -/
  | sliceWidthZero
  /-- WRL or RDL with `imm[9:3]` nonzero (R65). -/
  | laneTooLarge
  /-- A field the command does not use is nonzero (R64). -/
  | unusedField
deriving DecidableEq, Repr

/-- The 21 assigned values of `op` (R63, R65). -/
def assignedOps : List Nat :=
  [0x00, 0x01, 0x02, 0x03, 0x04, 0x05, 0x10, 0x11, 0x12, 0x13,
   0x20, 0x21, 0x22, 0x23, 0x24, 0x25, 0x30, 0x31, 0x32, 0x38, 0x39]

/-- Which of R65's cases a word that matches no row falls under. -/
def rejectReason (cw : CmdWord) : DecodeError :=
  if ¬ fieldOp cw ∈ assignedOps then .unassignedOpcode
  else if fieldRsv cw ≠ 0 then .reservedBits
  else if fieldOp cw = 0x25 ∧ fieldWs cw = .w64 then .sliceWidthZero
  else if (fieldOp cw = 0x02 ∨ fieldOp cw = 0x03) ∧ 7 < fieldImm cw then .laneTooLarge
  else .unusedField

/-- Decoding (R62, R65): the command of the row that the word matches, or the reason it matches none. -/
def decode (cw : CmdWord) : Except DecodeError Instr :=
  match opRows.find? (fun r => r.hits cw) with
  | some r => .ok (r.build cw)
  | none => .error (rejectReason cw)

/-- The instruction the decoder reads from the bits `w` of an instruction of `nbits` bits (log 19): a command is
one 32-bit word (R57, R66), so a number that needs more bits is no command. -/
def decodeTableWord (nbits w : Nat) : Option Instr :=
  if w % 2 ^ nbits < 2 ^ 32 then (decode (BitVec.ofNat 32 (w % 2 ^ nbits))).toOption else none

/-! ### Encoding (R57, R67: `op | ws<<8 | rd<<10 | rs1<<13 | rs2<<16 | imm<<19`) -/

/-- `ws` in its place. -/
def putWs (ws : Width) : CmdWord := BitVec.ofNat 32 (wsCode ws) <<< 8
/-- `rd` in its place. -/
def putRd (r : RegNum) : CmdWord := BitVec.ofNat 32 r.val <<< 10
/-- `rs1` in its place. -/
def putRs1 (r : RegNum) : CmdWord := BitVec.ofNat 32 r.val <<< 13
/-- `rs2` in its place. -/
def putRs2 (r : RegNum) : CmdWord := BitVec.ofNat 32 r.val <<< 16
/-- `imm` in its place; a number of more than ten bits would reach into `rsv` (`Instr.WellFormed`). -/
def putImm (n : Nat) : CmdWord := BitVec.ofNat 32 n <<< 19

/-- The command word of a command. -/
def encode : Instr → CmdWord
  | .nop => 0x00
  | .ldz rd => 0x01 ||| putRd rd
  | .wrl rd lane => 0x02 ||| putRd rd ||| putImm lane.val
  | .rdl rs1 lane => 0x03 ||| putRs1 rs1 ||| putImm lane.val
  | .rdcsr rd csr => 0x04 ||| putRd rd ||| putImm csr
  | .clrf => 0x05
  | .popcnt ws rd rs1 => 0x10 ||| putWs ws ||| putRd rd ||| putRs1 rs1
  | .tzcnt ws rd rs1 => 0x11 ||| putWs ws ||| putRd rd ||| putRs1 rs1
  | .pext ws rd rs1 rs2 b => 0x12 ||| putWs ws ||| putRd rd ||| putRs1 rs1 ||| putRs2 rs2 ||| putImm b
  | .pdep ws rd rs1 rs2 b => 0x13 ||| putWs ws ||| putRd rd ||| putRs1 rs1 ||| putRs2 rs2 ||| putImm b
  | .trunc rd n => 0x20 ||| putRd rd ||| putImm n
  | .shift rd n => 0x21 ||| putRd rd ||| putImm n
  | .mext8 rd rs2 => 0x22 ||| putRd rd ||| putRs2 rs2
  | .mext16 rd rs2 => 0x22 ||| putWs .w128 ||| putRd rd ||| putRs2 rs2
  | .mext32 rd rs2 => 0x22 ||| putWs .w256 ||| putRd rd ||| putRs2 rs2
  | .mext63 rd rs2 => 0x22 ||| putWs .w512 ||| putRd rd ||| putRs2 rs2
  | .sponge rd width => 0x23 ||| putRd rd ||| putImm width
  | .construct rd rs2 t => 0x24 ||| putRd rd ||| putRs2 rs2 ||| putImm t
  | .slice2 rd rs1 => 0x25 ||| putWs .w128 ||| putRd rd ||| putRs1 rs1
  | .slice4 rd rs1 => 0x25 ||| putWs .w256 ||| putRd rd ||| putRs1 rs1
  | .slice8 rd rs1 => 0x25 ||| putWs .w512 ||| putRd rd ||| putRs1 rs1
  | .concat ws rd => 0x30 ||| putWs ws ||| putRd rd
  | .mixexp ws rd => 0x31 ||| putWs ws ||| putRd rd
  | .spread ws rd rs2 => 0x32 ||| putWs ws ||| putRd rd ||| putRs2 rs2
  | .fseed => 0x38
  | .fblk rd => 0x39 ||| putRd rd

end Sys2Proof
end

