-- ==== Sys2Proof/Config.lean ====
section
/-!
DEFINITION. What the spec leaves to a parameter (00_scope.md R7, R36; 92_eei_decisions.md section 8) and the
free values. The machine's own choice of the two function parameters, with the spec's default for FEISTEL_F,
is `Sys2Proof.Machine.config` in Machine/Ops.lean.
-/

namespace Sys2Proof

/-- The two function parameters of the hardware (R7). -/
structure Config where
  /-- `FEISTEL_F`, the Feistel round function (43_feistel.md R134): a half and a sub-key to a half. -/
  feistelF : Half → Half → Half
  /-- `MIX`, the mixing function of MIXEXP (42_widener.md R119). -/
  mix : Word → Word

/-- DESIGN CHOICE (log 7; safe): the OPEN parameter `MIX` of R119, a total function of its argument of which
nothing else is known, so it has no body here. -/
opaque Config.mixOpen : Word → Word

/-- DESIGN CHOICE (log 3; safe): the free value a pull returns (R6, R13, 93_implementation_defined.md U1). It is
applied to the seed the host last gave the source and to the number of the draw; the number never repeats
along a run, so nothing ties one draw to another. -/
opaque Config.sourceWord : Option Word → Nat → Word

end Sys2Proof
end

