-- ==== Sys2Proof/Machine/Bits.lean ====
section
/-!
DEFINITION. The BitMath functions (40_bitmath.md section 1) and the other pure functions on bits the commands
share: the XOR fold of SPONGE, lanes, and the packing of words into lanes. Functions of R75 to R79 are
generic in the width `n`, which the commands take to be 64, 128, 256 or 512.
-/

namespace Sys2Proof.Machine

/-- Word (lane) `j` of a value: bits `64j+63 : 64j` (R9). -/
def laneOf {n : Nat} (v : BitVec n) (j : Nat) : Word := v.extractLsb' (64 * j) 64

/-- The number of set bits of `v` below position `i`. -/
def countBelow {n : Nat} (v : BitVec n) : Nat → Nat
  | 0 => 0
  | i + 1 => countBelow v i + (v.getLsbD i).toNat

/-- `popcount_N(v)` (R75). -/
def popcount {n : Nat} (v : BitVec n) : Nat := countBelow v n

/-- The scan for the lowest set bit of a word from position `i` on, `left` positions being left. -/
def tzScan (x : Word) : (left i : Nat) → Nat
  | 0, i => i
  | left + 1, i => if x.getLsbD i then i else tzScan x left (i + 1)

/-- `tz64(x)` (R76): the index of the lowest set bit, 64 for zero. -/
def tz64 (x : Word) : Nat := tzScan x 64 0

/-- The scan of R77 from word `j` on, `left` words being left: an all-zero word adds 64. -/
def tzWords {n : Nat} (v : BitVec n) : (left j : Nat) → Nat
  | 0, j => 64 * j
  | left + 1, j => if laneOf v j ≠ 0 then 64 * j + tz64 (laneOf v j) else tzWords v left (j + 1)

/-- `tz_N(v)` (R77). -/
def tz {n : Nat} (v : BitVec n) : Nat := tzWords v (n / 64) 0

/-- `r` with bit `k` set to `b`. -/
def setBit {n : Nat} (r : BitVec n) (k : Nat) (b : Bool) : BitVec n :=
  (r &&& ~~~(1#n <<< k)) ||| ((if b then 1#n else 0#n) <<< k)

/-- R78's loop after its first `i` positions: the next output position `k` and the result so far. -/
def pextUpTo {n : Nat} (v m : BitVec n) : Nat → Nat × BitVec n
  | 0 => (0, 0)
  | i + 1 =>
    match pextUpTo v m i with
    | (k, r) => if m.getLsbD i then (k + 1, setBit r k (v.getLsbD i)) else (k, r)

/-- `pext_N(v, m)` (R78). -/
def pext {n : Nat} (v m : BitVec n) : BitVec n := (pextUpTo v m n).2

/-- R79's loop after its first `i` positions: the next stream bit `k` and the result so far. -/
def pdepUpTo {n : Nat} (b m : BitVec n) : Nat → Nat × BitVec n
  | 0 => (0, 0)
  | i + 1 =>
    match pdepUpTo b m i with
    | (k, r) => if m.getLsbD i then (k + 1, setBit r i (b.getLsbD k)) else (k, r)

/-- `pdep_N(b, m)` (R79). -/
def pdep {n : Nat} (b m : BitVec n) : BitVec n := (pdepUpTo b m n).2

/-- `fold(x, w) = x[2w−1:w] xor x[w−1:0]` (R99), held in a word. -/
def fold (x : Word) (w : Nat) : Word := (x.extractLsb' w w ^^^ x.extractLsb' 0 w).setWidth 64

/-- The folds of SPONGE (R100) from the width `cur` down to `width`; `fuel` bounds them (six always do, R156). -/
def spongeFrom (width : Nat) : (fuel cur : Nat) → Word → Word
  | 0, _, x => x
  | fuel + 1, cur, x => if width < cur then spongeFrom width fuel (cur / 2) (fold x (cur / 2)) else x

/-- The word `x` folded down to `width` bits (R100). -/
def sponge (x : Word) (width : Nat) : Word := spongeFrom width 6 64 x

/-- The words of a list as the lanes of a wide value, the first in lane 0; the lanes above are zero (R41). -/
def packLanes : List Word → Wide
  | [] => 0
  | x :: xs => x.setWidth 512 ||| (packLanes xs <<< 64)

/-- A wide value with lane `j` replaced (R152). -/
def setLane (t : Wide) (j : LaneNum) (x : Word) : Wide :=
  (t &&& ~~~((BitVec.allOnes 64).setWidth 512 <<< (64 * j.val))) ||| (x.setWidth 512 <<< (64 * j.val))

/-- The `k` parts of `width` bits of a word, the lowest first (R106), each zero-extended. -/
def parts (x : Word) (width : Nat) : (k i : Nat) → List Word
  | 0, _ => []
  | k + 1, i => (x.extractLsb' (width * i) width).setWidth 64 :: parts x width k (i + 1)

/-- `x`, `MIX(x)`, `MIX(MIX(x))`, ...: `n` words (R118). -/
def mixChain (mix : Word → Word) (x : Word) : Nat → List Word
  | 0 => []
  | n + 1 => x :: mixChain mix (mix x) n

/-- CONSTRUCT's accumulation over the pulled words in pull order (R103): each round shifts the running result
left by `p` and ORs in the bits extracted from a fresh word. -/
def accumulate (m : Word) (p : Nat) (ws : List Word) : Word :=
  ws.foldl (fun acc s => (acc <<< p) ||| pext s m) 0

end Sys2Proof.Machine
end

