-- ==== Sys2Proof/Machine/State.lean ====
section
/-!
DEFINITION. The state of the BMU (10_state.md R20) together with its two ports and the two agents behind them, the
reasons a run can stop, and the state after reset (R37).
-/

namespace Sys2Proof.Machine

/-- The faults a command can raise (60_exceptions.md R167: five constructors; code 4 is never raised). Raising
one is a NEXT state (R170), not a stop. -/
inductive CmdFault where
  /-- The mask operand is zero. -/
  | invalidMask
  /-- The mask's population count exceeds the budget, the target width or `total_bits`. -/
  | maskTooWide
  /-- A bit-count immediate is outside its legal set. -/
  | invalidBitCount
  /-- The command word is not a legal encoding, or RDCSR names no CSR. -/
  | illegalCommand
  /-- FBLK before any FSEED since reset. -/
  | notSeeded
deriving DecidableEq, Repr

/-- The response to a command: the 4-bit status code and the 64-bit data-out (R55). -/
structure Response where
  status : BitVec 4
  dout : Word
deriving DecidableEq, Repr

/-- What the word source does once `Source.queued` is used up. -/
inductive AfterQueue where
  /-- It goes on answering, with free values (R6, U1). -/
  | free
  /-- It does not answer any more (R198, U5). -/
  | silent
deriving DecidableEq, Repr

/-- The word source as the BMU meets it (00_scope.md R6). DESIGN CHOICE (log 3; safe): which words are fixed in
advance, and the counter that picks the free ones, are the model's own. -/
structure Source where
  /-- Words the source is known to return next, the next one first. -/
  queued : List Word
  /-- What follows them. -/
  after : AfterQueue
  /-- The value of the host's last `seed` call at the source, if any. -/
  seed : Option Word
  /-- How many words the source has handed out; it numbers the free values and is never set back. -/
  drawn : Nat
deriving DecidableEq, Repr

/-- What the host can do to the BMU and to the word source (R5, R190, R196; DESIGN CHOICE, logs 1 and 9 to 12). -/
inductive HostEvent where
  /-- Present a command, the response to the one before having come back (R196). -/
  | command (c : Command)
  /-- Apply reset between commands (R190). -/
  | reset
  /-- Apply reset while the command `c` is outstanding, after it has pulled `k` words (R193). -/
  | resetDuring (c : Command) (k : Nat)
  /-- Call `seed` at the word source between commands (R49). Whether the source answers from then on, an earlier
  silence or not, the spec leaves to the source (R194): `after` says it, and every value is allowed (log 12). -/
  | seed (value : Word) (after : AfterQueue)
  /-- Present the command `d` while `c` is outstanding: a breach of R196. -/
  | overlap (c d : Command)
  /-- Call `seed` at the word source while `c` is outstanding: a breach of R49. -/
  | seedDuring (c : Command) (value : Word)
deriving DecidableEq, Repr

/-- Why a run stops for good: nothing stops it. The BMU's own faults are next states (`CmdFault`, R170), and a source
that does not answer leaves the command outstanding (R198, `State.outstanding`). No constructor, so nobody raises
one. -/
inductive Fault
deriving DecidableEq, Repr

/-- Why the model gives a step no meaning. -/
inductive Refusal where
  /-- Raised by `exec` for an instruction with no meaning yet; no arm raises it now. Safe. -/
  | notModelled (mnemonic : String)
  /-- Raised by `serve` and `serveOutstanding` when the host presents a command while another is outstanding: the
  spec gives it no meaning (R196, U2: refuse). Safe (log 11). -/
  | overlappedCommand
  /-- Raised by `serve` and `serveOutstanding` when the host seeds the word source while a command is outstanding:
  the spec gives it no meaning (R49, R201, U3: refuse). Safe (log 11). -/
  | seedDuringCommand
deriving DecidableEq, Repr

/-- The state: the architectural state of R20, then the ports and the agents behind them. -/
structure State where
  /-- `W0` to `W7` (R21). -/
  w : Vector Wide 8
  /-- The Feistel `state` (R30). -/
  fstate : Word
  /-- The Feistel `key` (R30). -/
  fkey : Word
  /-- The Feistel `counter` (R30). -/
  fctr : Word
  /-- The Feistel `counterIndex`: the bit offset of the next 4-bit slice of `fctr` (R30). -/
  fidx : BitVec 6
  /-- Seeded since reset (R31). -/
  fvalid : Bool
  /-- The sticky fault bit `FLT` (R26). -/
  flt : Bool
  /-- `CAUSE` (R27). -/
  cause : BitVec 4
  /-- `ECMD` (R28). -/
  ecmd : CmdWord
  /-- `PULLS` (R34). -/
  pulls : Word
  /-- The command on the command port (R55); log 6. -/
  cmd : Command
  /-- A command is outstanding: it waits for a word that the source has not returned (R191, R193, R198); log 4. -/
  outstanding : Bool
  /-- The responses returned so far, oldest first (R55, R177); log 5. -/
  responses : List Response
  /-- What the host does next, in order (R23, R196); log 1. -/
  host : List HostEvent
  /-- The word source (R6); log 3. -/
  source : Source
deriving DecidableEq, Repr

/-- A word source that has handed out nothing, was never seeded and answers with free values
(DESIGN CHOICE, log 3). -/
def freshSource : Source := { queued := [], after := .free, seed := none, drawn := 0 }

/-- The machine right after reset (R37, R191): every piece of the state of R20 is zero and no command is outstanding.
The ports are empty and the host has nothing in hand (DESIGN CHOICE, logs 1, 5 and 6). -/
def State.reset : State where
  w := Vector.replicate 8 0
  fstate := 0
  fkey := 0
  fctr := 0
  fidx := 0
  fvalid := false
  flt := false
  cause := 0
  ecmd := 0
  pulls := 0
  cmd := { cw := 0, din := 0 }
  outstanding := false
  responses := []
  host := []
  source := freshSource

end Sys2Proof.Machine
end

