-- ==== Sys2Proof/Machine/Ops.lean ====
section
/-!
DEFINITION. The named operations of the machine: the machine's parameters, reading and writing wide registers,
pulling source words, responding, and taking a fault and clearing its record (the BMU's exception entry, and the
acknowledgement that stands in the place of a return: 60_exceptions.md R170, R173, R175).
-/

namespace Sys2Proof.Machine

/-- What a meaning answers. -/
abbrev Out := Host.Outcome State Fault Refusal

/-! ### Parameters (R7) -/

/-- `rotl32(x, r)` for `0 < r < 32` (R10). -/
def rotl32 (x : Half) (r : Nat) : Half := (x <<< r) ||| (x >>> (32 - r))

/-- `F_ref(x, k) = rotl32(x, 7) xor k` (R134). -/
def feistelRef (x k : Half) : Half := rotl32 x 7 ^^^ k

/-- The parameters of this machine: the spec's default round function (R134, D33; log 8) and the OPEN mixing
function (R119; log 7). -/
def config : Config := { feistelF := feistelRef, mix := Config.mixOpen }

/-! ### Wide registers (R21) -/

/-- The 512 bits of `W[r]`. -/
def State.getW (s : State) (r : RegNum) : Wide := s.w[r]

/-- `W[r] <- v`, all 512 bits. -/
def State.setW (s : State) (r : RegNum) (v : Wide) : State := { s with w := s.w.set r v }

/-! ### Responses (R55, R61) -/

/-- The response `STATUS = status`, `DOUT = dout` is returned. -/
def State.respond (s : State) (status : BitVec 4) (dout : Word) : State :=
  { s with responses := s.responses ++ [{ status := status, dout := dout }] }

/-- A command that succeeds and writes no wide register: `STATUS = 0` and the given `DOUT` (R61). -/
def answer (dout : Word) (s : State) : State := s.respond 0 dout

/-- A command that succeeds with the value `v` for `W[rd]`: `DOUT` is bits 63:0 of it (R57, R61). -/
def writeResult (rd : RegNum) (v : Wide) (s : State) : State := (s.setW rd v).respond 0 (v.setWidth 64)

/-! ### Faults (R167, R170) and their acknowledgement (R155, R175) -/

/-- The fault codes (R167). -/
def faultCode : CmdFault → BitVec 4
  | .invalidMask => 1
  | .maskTooWide => 2
  | .invalidBitCount => 3
  | .illegalCommand => 5
  | .notSeeded => 6

/-- The fault record: `FLT`, `CAUSE` and `ECMD`. -/
def State.setRecord (s : State) (flt : Bool) (cause : BitVec 4) (ecmd : CmdWord) : State :=
  { s with flt := flt, cause := cause, ecmd := ecmd }

/-- Taking a fault (R170): the code in the response with `DOUT = 0`, the record written, nothing else changed. -/
def takeFault (f : CmdFault) (s : State) : State :=
  (s.setRecord true (faultCode f) s.cmd.cw).respond (faultCode f) 0

/-- The acknowledgement of a fault (R155): the record is cleared, nothing else is restored. -/
def clearRecord (s : State) : State := s.setRecord false 0 0

/-- A command goes on when its checks found no fault; otherwise it takes the one they found (R12, R166). -/
def checked (fault : Option CmdFault) (s : State) (go : Out) : Out :=
  match fault with
  | some f => .next (takeFault f s)
  | none => go

/-! ### Pulls (R13, R34, R198) -/

/-- `next()` at the word source: a word and the source after it, or nothing when it does not answer. -/
def sourceNext (src : Source) : Option (Word × Source) :=
  match src.queued with
  | x :: xs => some (x, { src with queued := xs, drawn := src.drawn + 1 })
  | [] =>
    match src.after with
    | .free => some (Config.sourceWord src.seed src.drawn, { src with drawn := src.drawn + 1 })
    | .silent => none

/-- The word source and the counter `PULLS` after a pull. -/
def State.setSource (s : State) (src : Source) (pulls : Word) : State := { s with source := src, pulls := pulls }

/-- `SrcNext()` (R13): one `next()`; `PULLS` grows by 1 modulo `2^64` (R34). -/
def pull (s : State) : Option (Word × State) :=
  match sourceNext s.source with
  | some (x, src) => some (x, s.setSource src (s.pulls + 1))
  | none => none

/-- Whether a command is outstanding (R191, R198). -/
def State.setOutstanding (s : State) (b : Bool) : State := { s with outstanding := b }

/-- The word a command waits for does not come (R198): the command stays outstanding, with no response; the words
received before are gone from the source and counted in `PULLS`, and nothing is written (R12). -/
def stall (s : State) : State := s.setOutstanding true

/-- A command that pulls one word and goes on with it; without an answer it stalls (R198, log 4). -/
def withWord (s : State) (go : Word → State → Out) : Out :=
  match pull s with
  | some (x, s1) => go x s1
  | none => .next (stall s)

/-- A command that pulls `n` words, in pull order, and goes on with them. -/
def withWords : (n : Nat) → (s : State) → (go : List Word → State → Out) → Out
  | 0, s, go => go [] s
  | n + 1, s, go => withWord s fun x s1 => withWords n s1 fun xs s2 => go (x :: xs) s2

end Sys2Proof.Machine
end

