-- ==== Sys2Proof/Machine/Flags.lean ====
section
/-!
DEFINITION. The control and status registers as RDCSR reads them (10_state.md R25 to R29, R34). The BMU has no
condition codes (R24); its only flag-like bits are `FLT` and `FVALID`, the two bits of `STATUS`.
-/

namespace Sys2Proof.Machine

/-- The `STATUS` register (R26): bit 0 `FLT`, bit 1 `FVALID`, the others zero. -/
def statusWord (s : State) : Word :=
  (if s.flt then 1 else 0) ||| (if s.fvalid then 2 else 0)

/-- The 64-bit read value of CSR `n` (R25), zero in every bit the register does not have; none when there is no
such CSR. -/
def csrValue (n : Nat) (s : State) : Option Word :=
  match n with
  | 0 => some (statusWord s)
  | 1 => some (s.cause.setWidth 64)
  | 2 => some (s.ecmd.setWidth 64)
  | 3 => some s.fstate
  | 4 => some s.fkey
  | 5 => some s.fctr
  | 6 => some (s.fidx.setWidth 64)
  | 7 => some s.pulls
  | _ => none

end Sys2Proof.Machine
end

