-- ==== Sys2Proof/Machine/Operands.lean ====
section
/-!
DEFINITION. The operand forms of the commands: the operating width, a source register at that width, the budget
immediate, and the checks on masks and bit counts (30_encoding.md R57, R59; 40_bitmath.md R85; 41_narrower.md R96,
R100, R104).
-/

namespace Sys2Proof.Machine

/-- The operating width `N = 64 << ws` (R57). -/
def opBits : Width → Nat
  | .w64 => 64
  | .w128 => 128
  | .w256 => 256
  | .w512 => 512

/-- The number of words of the operating width, `N/64`. -/
def opWords (ws : Width) : Nat := opBits ws / 64

/-- `W[r][N−1:0]` (R21, R57): the bits above are ignored. -/
def readAt (ws : Width) (r : RegNum) (s : State) : BitVec (opBits ws) := (s.getW r).setWidth (opBits ws)

/-- `W[r][63:0]`: the mask of MEXT and CONSTRUCT, the value of SLICE. -/
def readLow (r : RegNum) (s : State) : Word := (s.getW r).setWidth 64

/-- Lane `j` of `W[r]` (R153). -/
def readLane (r : RegNum) (j : LaneNum) (s : State) : Word := laneOf (s.getW r) j.val

/-- The budget `B` of PEXT and PDEP (R59, R82): 0 states none and stands for `N`. -/
def budgetOf (ws : Width) (imm : Nat) : Nat := if imm = 0 then opBits ws else imm

/-- The two mask checks, in their order (R85). -/
def maskFault {n : Nat} (m : BitVec n) (budget : Nat) : Option CmdFault :=
  if m = 0 then some .invalidMask
  else if budget < popcount m then some .maskTooWide
  else none

/-- The bit-count check of TRUNC and SHIFT (R96, R97). -/
def countFault (n : Nat) : Option CmdFault :=
  if n < 1 ∨ 63 < n then some .invalidBitCount else none

/-- The widths SPONGE accepts (R100). -/
def spongeWidths : List Nat := [1, 2, 4, 8, 16, 32]

/-- The width check of SPONGE (R100). -/
def spongeFault (width : Nat) : Option CmdFault :=
  if width ∈ spongeWidths then none else some .invalidBitCount

/-- The four checks of CONSTRUCT, in their order (R104). -/
def constructFault (m : Word) (t : Nat) : Option CmdFault :=
  if m = 0 then some .invalidMask
  else if t < popcount m then some .maskTooWide
  else if 64 < t then some .invalidBitCount
  else if t % popcount m ≠ 0 then some .invalidBitCount
  else none

end Sys2Proof.Machine
end

