-- ==== Sys2Proof/Machine/Counts.lean ====
section
/-!
DEFINITION. Two tables of the spec over all commands, read from the state before the command: which fault a decoded
command raises (60_exceptions.md R171) and how many words it pulls (70_reset_and_hazards.md R199). The
host's reset during a command (R193) rests on the second; claims compare both with `exec`.
-/

namespace Sys2Proof.Machine

/-- The fault a decoded command raises in a state, if any (R171, R172). -/
def commandFault : Instr → State → Option CmdFault
  | .nop, _ => none
  | .ldz _, _ => none
  | .wrl _ _, _ => none
  | .rdl _ _, _ => none
  | .rdcsr _ csr, _ => if 7 < csr then some .illegalCommand else none
  | .clrf, _ => none
  | .popcnt _ _ _, _ => none
  | .tzcnt _ _ _, _ => none
  | .pext ws _ _ rs2 budget, s => maskFault (readAt ws rs2 s) (budgetOf ws budget)
  | .pdep ws _ _ rs2 budget, s => maskFault (readAt ws rs2 s) (budgetOf ws budget)
  | .trunc _ n, _ => countFault n
  | .shift _ n, _ => countFault n
  | .mext8 _ rs2, s => maskFault (readLow rs2 s) 8
  | .mext16 _ rs2, s => maskFault (readLow rs2 s) 16
  | .mext32 _ rs2, s => maskFault (readLow rs2 s) 32
  | .mext63 _ rs2, s => maskFault (readLow rs2 s) 63
  | .sponge _ width, _ => spongeFault width
  | .construct _ rs2 t, s => constructFault (readLow rs2 s) t
  | .slice2 _ _, _ => none
  | .slice4 _ _, _ => none
  | .slice8 _ _, _ => none
  | .concat _ _, _ => none
  | .mixexp _ _, _ => none
  | .spread ws _ rs2, s => maskFault (readAt ws rs2 s) 64
  | .fseed, _ => none
  | .fblk _, s => if s.fvalid then none else some .notSeeded

/-- The pulls of a command that succeeds (R199). -/
def pullsOnSuccess : Instr → State → Nat
  | .nop, _ => 0
  | .ldz _, _ => 0
  | .wrl _ _, _ => 0
  | .rdl _ _, _ => 0
  | .rdcsr _ _, _ => 0
  | .clrf, _ => 0
  | .popcnt _ _ _, _ => 0
  | .tzcnt _ _ _, _ => 0
  | .pext _ _ _ _ _, _ => 0
  | .pdep _ _ _ _ _, _ => 0
  | .trunc _ _, _ => 1
  | .shift _ _, _ => 1
  | .mext8 _ _, _ => 1
  | .mext16 _ _, _ => 1
  | .mext32 _ _, _ => 1
  | .mext63 _ _, _ => 1
  | .sponge _ _, _ => 1
  | .construct _ rs2 t, s => t / popcount (readLow rs2 s)
  | .slice2 _ _, _ => 0
  | .slice4 _ _, _ => 0
  | .slice8 _ _, _ => 0
  | .concat ws _, _ => opWords ws
  | .mixexp _ _, _ => 1
  | .spread _ _ _, _ => 1
  | .fseed, _ => 3
  | .fblk _, _ => 0

/-- The pulls of a decoded command (R199): those of its rule, none when it faults. -/
def pullCount (i : Instr) (s : State) : Nat :=
  match commandFault i s with
  | some _ => 0
  | none => pullsOnSuccess i s

end Sys2Proof.Machine
end

