-- ==== Sys2Proof/Machine/BitMath.lean ====
section
/-!
DEFINITION. The BitMath commands (40_bitmath.md R80 to R83).
-/

namespace Sys2Proof.Machine

/-- POPCNT (R80): total, 0 for a zero operand. -/
def execPopcnt (ws : Width) (rd rs1 : RegNum) (s : State) : Out :=
  .next (writeResult rd (BitVec.ofNat 512 (popcount (readAt ws rs1 s))) s)

/-- TZCNT (R81): total, `N` for a zero operand. -/
def execTzcnt (ws : Width) (rd rs1 : RegNum) (s : State) : Out :=
  .next (writeResult rd (BitVec.ofNat 512 (tz (readAt ws rs1 s))) s)

/-- PEXT (R82). -/
def execPext (ws : Width) (rd rs1 rs2 : RegNum) (budget : Nat) (s : State) : Out :=
  checked (maskFault (readAt ws rs2 s) (budgetOf ws budget)) s <|
    .next (writeResult rd ((pext (readAt ws rs1 s) (readAt ws rs2 s)).setWidth 512) s)

/-- PDEP (R83). -/
def execPdep (ws : Width) (rd rs1 rs2 : RegNum) (budget : Nat) (s : State) : Out :=
  checked (maskFault (readAt ws rs2 s) (budgetOf ws budget)) s <|
    .next (writeResult rd ((pdep (readAt ws rs1 s) (readAt ws rs2 s)).setWidth 512) s)

end Sys2Proof.Machine
end

