-- ==== Sys2Proof/Machine/Feistel.lean ====
section
/-!
DEFINITION. The Feistel stream (43_feistel.md R130 to R135). The round function is an argument of the pieces and of
the block; the commands use the machine's (`config.feistelF`).
-/

namespace Sys2Proof.Machine

/-- Two Feistel rounds on the halves of `state` under the halves of `key` (R132): the value `mixed`. -/
def mixed (F : Half → Half → Half) (state key : Word) : Word :=
  let l := state.extractLsb' 32 32
  let r := state.extractLsb' 0 32
  let l1 := l ^^^ F r (key.extractLsb' 0 32)
  let r1 := r ^^^ F l1 (key.extractLsb' 32 32)
  l1 ++ r1

/-- `iterate()` on the pair (`fstate`, `fkey`) (R132): the old key becomes the state, the mixed value the key. -/
def iterate (F : Half → Half → Half) (sk : Word × Word) : Word × Word := (sk.2, mixed F sk.1 sk.2)

/-- `n` iterations. -/
def iterateMany (F : Half → Half → Half) : Nat → Word × Word → Word × Word
  | 0, sk => sk
  | n + 1, sk => iterateMany F n (iterate F sk)

/-- The number of iterations of the next block (R133): 1 plus the 4-bit slice of the counter at the cursor. -/
def blockIterations (fctr : Word) (fidx : BitVec 6) : Nat := 1 + ((fctr >>> fidx.toNat).extractLsb' 0 4).toNat

/-- The Feistel state written whole. -/
def State.setFeistel (s : State) (fstate fkey fctr : Word) (fidx : BitVec 6) : State :=
  { s with fstate := fstate, fkey := fkey, fctr := fctr, fidx := fidx }

/-- The bit `fvalid` (R31). -/
def State.setFvalid (s : State) (v : Bool) : State := { s with fvalid := v }

/-- FSEED (R131): three words in this order to `fstate`, `fkey`, `fctr`; the cursor at the lowest slice. -/
def execFseed (s : State) : Out :=
  withWord s fun a s1 => withWord s1 fun b s2 => withWord s2 fun c s3 =>
    .next (answer 0 ((s3.setFeistel a b c 0).setFvalid true))

/-- The state part of FBLK (R133) once the iterations gave `sk`: the cursor moves by 4 modulo 64, and when it comes
back to 0 the counter and the state swap. -/
def advanceCursor (sk : Word × Word) (s : State) : State :=
  if s.fidx + 4 = 0 then s.setFeistel s.fctr sk.2 sk.1 0
  else s.setFeistel sk.1 sk.2 s.fctr (s.fidx + 4)

/-- FBLK for the round function `F` (R133): the block is the state after the iterations, taken before the swap. -/
def nextBlock (F : Half → Half → Half) (rd : RegNum) (s : State) : Out :=
  if s.fvalid = false then .next (takeFault .notSeeded s)
  else
    let sk := iterateMany F (blockIterations s.fctr s.fidx) (s.fstate, s.fkey)
    .next (writeResult rd (sk.1.setWidth 512) (advanceCursor sk s))

/-- FBLK (R133) with the machine's `FEISTEL_F` (R134). -/
def execFblk (rd : RegNum) (s : State) : Out := nextBlock config.feistelF rd s

/-- The eight bytes a block contributes to the byte stream, least significant first (R135). -/
def blockBytes (block : Word) : List (BitVec 8) :=
  (List.range 8).map fun k => block.extractLsb' (8 * k) 8

end Sys2Proof.Machine
end

