-- ==== Sys2Proof/Machine/Narrower.lean ====
section
/-!
DEFINITION. The Narrower commands (41_narrower.md R95 to R106). Register operands are read and every check is made
before a word is pulled (R12).
-/

namespace Sys2Proof.Machine

/-- TRUNC (R96): `s[n−1:0]` of a pulled word. -/
def execTrunc (rd : RegNum) (n : Nat) (s : State) : Out :=
  checked (countFault n) s <| withWord s fun x s1 =>
    .next (writeResult rd ((x.extractLsb' 0 n).setWidth 512) s1)

/-- SHIFT (R97): `s[63:64−n]` of a pulled word, right-justified. -/
def execShift (rd : RegNum) (n : Nat) (s : State) : Out :=
  checked (countFault n) s <| withWord s fun x s1 =>
    .next (writeResult rd ((x >>> (64 - n)).setWidth 512) s1)

/-- MEXT with target width `target` (R98): the mask is the low 64 bits of `W[rs2]`. -/
def maskExtract (target : Nat) (rd rs2 : RegNum) (s : State) : Out :=
  checked (maskFault (readLow rs2 s) target) s <| withWord s fun x s1 =>
    .next (writeResult rd ((pext x (readLow rs2 s)).setWidth 512) s1)

/-- MEXT8 (R98). -/
def execMext8 (rd rs2 : RegNum) (s : State) : Out := maskExtract 8 rd rs2 s

/-- MEXT16 (R98). -/
def execMext16 (rd rs2 : RegNum) (s : State) : Out := maskExtract 16 rd rs2 s

/-- MEXT32 (R98). -/
def execMext32 (rd rs2 : RegNum) (s : State) : Out := maskExtract 32 rd rs2 s

/-- MEXT63 (R98). -/
def execMext63 (rd rs2 : RegNum) (s : State) : Out := maskExtract 63 rd rs2 s

/-- SPONGE (R100). -/
def execSponge (rd : RegNum) (width : Nat) (s : State) : Out :=
  checked (spongeFault width) s <| withWord s fun x s1 =>
    .next (writeResult rd ((sponge x width).setWidth 512) s1)

/-- CONSTRUCT (R103, R104): a fresh word each round, `t / p` rounds. -/
def execConstruct (rd rs2 : RegNum) (totalBits : Nat) (s : State) : Out :=
  let m := readLow rs2 s
  let p := popcount m
  checked (constructFault m totalBits) s <| withWords (totalBits / p) s fun xs s1 =>
    .next (writeResult rd ((accumulate m p xs).setWidth 512) s1)

/-- SLICE into `k` parts of `width` bits, part `i` in lane `i` (R106). -/
def sliceInto (k width : Nat) (rd rs1 : RegNum) (s : State) : Out :=
  .next (writeResult rd (packLanes (parts (readLow rs1 s) width k 0)) s)

/-- SLICE2 (R106). -/
def execSlice2 (rd rs1 : RegNum) (s : State) : Out := sliceInto 2 32 rd rs1 s

/-- SLICE4 (R106). -/
def execSlice4 (rd rs1 : RegNum) (s : State) : Out := sliceInto 4 16 rd rs1 s

/-- SLICE8 (R106). -/
def execSlice8 (rd rs1 : RegNum) (s : State) : Out := sliceInto 8 8 rd rs1 s

end Sys2Proof.Machine
end

