-- ==== Sys2Proof/Machine/System.lean ====
section
/-!
DEFINITION. The host-access and system commands (44_system.md R150 to R155).
-/

namespace Sys2Proof.Machine

/-- NOP (R150). -/
def execNop (s : State) : Out := .next (answer 0 s)

/-- LDZ (R151): `W[rd] <- zext_512(DIN)`. -/
def execLdz (rd : RegNum) (s : State) : Out := .next (writeResult rd (s.cmd.din.setWidth 512) s)

/-- WRL (R152): one lane of `W[rd]`; the other lanes are kept and `DOUT` is 0. -/
def execWrl (rd : RegNum) (lane : LaneNum) (s : State) : Out :=
  .next (answer 0 (s.setW rd (setLane (s.getW rd) lane s.cmd.din)))

/-- RDL (R153): `DOUT` is a lane of `W[rs1]`. -/
def execRdl (rs1 : RegNum) (lane : LaneNum) (s : State) : Out := .next (answer (readLane rs1 lane s) s)

/-- RDCSR (R154): the value of a CSR as it stands before the command; IllegalCommand when there is none. -/
def execRdcsr (rd : RegNum) (csr : Nat) (s : State) : Out :=
  match csrValue csr s with
  | some c => .next (writeResult rd (c.setWidth 512) s)
  | none => .next (takeFault .illegalCommand s)

/-- CLRF (R155). -/
def execClrf (s : State) : Out := .next (answer 0 (clearRecord s))

end Sys2Proof.Machine
end

