-- ==== Sys2Proof/Machine/Widener.lean ====
section
/-!
DEFINITION. The Widener commands (42_widener.md R115 to R120).
-/

namespace Sys2Proof.Machine

/-- CONCAT (R116): `N/64` words, the first pulled in lane 0. -/
def execConcat (ws : Width) (rd : RegNum) (s : State) : Out :=
  withWords (opWords ws) s fun xs s1 => .next (writeResult rd (packLanes xs) s1)

/-- MIXEXP for the mixing function `mix` (R118): one pull, lane `j` is `mix` applied `j` times to the word. -/
def mixExpand (mix : Word → Word) (ws : Width) (rd : RegNum) (s : State) : Out :=
  withWord s fun x s1 => .next (writeResult rd (packLanes (mixChain mix x (opWords ws))) s1)

/-- MIXEXP (R118) with the machine's `MIX` (R119). -/
def execMixexp (ws : Width) (rd : RegNum) (s : State) : Out := mixExpand config.mix ws rd s

/-- SPREAD (R120): one word's bits under a wide mask of at most 64 set bits. -/
def execSpread (ws : Width) (rd rs2 : RegNum) (s : State) : Out :=
  checked (maskFault (readAt ws rs2 s) 64) s <| withWord s fun x s1 =>
    .next (writeResult rd ((pdep (x.setWidth (opBits ws)) (readAt ws rs2 s)).setWidth 512) s1)

end Sys2Proof.Machine
end

