-- ==== Sys2Proof/Machine/Dispatch.lean ====
section
/-!
DEFINITION. The dispatch: one arm per constructor of `Instr`, each one call of its meaning.
-/

namespace Sys2Proof.Machine

def exec (i : Instr) (s : State) : Host.Outcome State Fault Refusal :=
  match i with
  | .nop => Sys2Proof.Machine.execNop s
  | .ldz rd => Sys2Proof.Machine.execLdz rd s
  | .wrl rd lane => Sys2Proof.Machine.execWrl rd lane s
  | .rdl rs1 lane => Sys2Proof.Machine.execRdl rs1 lane s
  | .rdcsr rd csr => Sys2Proof.Machine.execRdcsr rd csr s
  | .clrf => Sys2Proof.Machine.execClrf s
  | .popcnt ws rd rs1 => Sys2Proof.Machine.execPopcnt ws rd rs1 s
  | .tzcnt ws rd rs1 => Sys2Proof.Machine.execTzcnt ws rd rs1 s
  | .pext ws rd rs1 rs2 budget => Sys2Proof.Machine.execPext ws rd rs1 rs2 budget s
  | .pdep ws rd rs1 rs2 budget => Sys2Proof.Machine.execPdep ws rd rs1 rs2 budget s
  | .trunc rd n => Sys2Proof.Machine.execTrunc rd n s
  | .shift rd n => Sys2Proof.Machine.execShift rd n s
  | .mext8 rd rs2 => Sys2Proof.Machine.execMext8 rd rs2 s
  | .mext16 rd rs2 => Sys2Proof.Machine.execMext16 rd rs2 s
  | .mext32 rd rs2 => Sys2Proof.Machine.execMext32 rd rs2 s
  | .mext63 rd rs2 => Sys2Proof.Machine.execMext63 rd rs2 s
  | .sponge rd width => Sys2Proof.Machine.execSponge rd width s
  | .construct rd rs2 totalBits => Sys2Proof.Machine.execConstruct rd rs2 totalBits s
  | .slice2 rd rs1 => Sys2Proof.Machine.execSlice2 rd rs1 s
  | .slice4 rd rs1 => Sys2Proof.Machine.execSlice4 rd rs1 s
  | .slice8 rd rs1 => Sys2Proof.Machine.execSlice8 rd rs1 s
  | .concat ws rd => Sys2Proof.Machine.execConcat ws rd s
  | .mixexp ws rd => Sys2Proof.Machine.execMixexp ws rd s
  | .spread ws rd rs2 => Sys2Proof.Machine.execSpread ws rd rs2 s
  | .fseed => Sys2Proof.Machine.execFseed s
  | .fblk rd => Sys2Proof.Machine.execFblk rd s

end Sys2Proof.Machine
end

