-- ==== Sys2Proof/Machine/Port.lean ====
section
/-!
DEFINITION. What the host does to the machine: presenting a command (30_encoding.md R55, R62, R65), reset
(70_reset_and_hazards.md R190 to R193), and seeding the word source (20_memory.md R49).
-/

namespace Sys2Proof.Machine

/-- The command stands on the command port (R55, R36). -/
def State.present (s : State) (c : Command) : State := { s with cmd := c }

/-- The rest of the host's schedule. -/
def State.setHost (s : State) (es : List HostEvent) : State := { s with host := es }

/-- The word source exchanged, `PULLS` kept. -/
def State.withSource (s : State) (src : Source) : State := { s with source := src }

/-- A presented command is decoded and executed; a word that is no command raises IllegalCommand (R65, R168). -/
def runCommand (c : Command) (s : State) : Out :=
  match decode c.cw with
  | .ok i => exec i (s.present c)
  | .error _ => .next (takeFault .illegalCommand (s.present c))

/-- The state after reset is applied (R190, R191): every piece of the state of R20 takes its reset value and no
command is outstanding; the word source is not touched (R193). The responses already returned and the host's
schedule are not the BMU's (log 9). -/
def resetState (s : State) : State :=
  { State.reset with responses := s.responses, host := s.host, source := s.source }

/-- The word source after `n` words were taken from it, as far as it answers. -/
def dropWords : Nat → Source → Source
  | 0, src => src
  | n + 1, src =>
    match sourceNext src with
    | some (_, src1) => dropWords n src1
    | none => src

/-- How many words the command `c` can have pulled when reset comes after `k` pulls: no more than it would pull to
its end (R193, R199; log 10). -/
def abandonedPulls (c : Command) (k : Nat) (s : State) : Nat :=
  match decode c.cw with
  | .ok i => min k (pullCount i s)
  | .error _ => 0

/-- Reset while the command `c` is outstanding (R193): no response, every register at its reset value, the words it
had pulled lost. -/
def abandon (c : Command) (k : Nat) (s : State) : State :=
  resetState (s.withSource (dropWords (abandonedPulls c k s) s.source))

/-- The word source after the host's `seed` call (R6, R49): the words it returns next are not known, and whether it
answers at all, after an earlier silence or not, is the event's to say, because the spec leaves it to the source (R194;
DESIGN CHOICE, log 12; safe). -/
def seedSource (value : Word) (after : AfterQueue) (src : Source) : Source :=
  { src with queued := [], after := after, seed := some value }

/-- One event of the host, with no command outstanding. -/
def serve (e : HostEvent) (s : State) : Out :=
  match e with
  | .command c => runCommand c s
  | .reset => .next (resetState s)
  | .resetDuring c k => .next (abandon c k s)
  | .seed value after => .next (s.withSource (seedSource value after s.source))
  | .overlap _ _ => .refused .overlappedCommand
  | .seedDuring _ _ => .refused .seedDuringCommand

/-- One event of the host while a command is outstanding because a word did not come: reset is the only way out
(R198), and it abandons the command (R193); another command (R196) and a seed (R49) have no meaning (log 11). -/
def serveOutstanding (e : HostEvent) (s : State) : Out :=
  match e with
  | .command _ => .refused .overlappedCommand
  | .reset => .next (resetState s)
  | .resetDuring _ _ => .refused .overlappedCommand
  | .seed _ _ => .refused .seedDuringCommand
  | .overlap _ _ => .refused .overlappedCommand
  | .seedDuring _ _ => .refused .overlappedCommand

/-- The host's next event and the state without it. -/
def nextEvent (s : State) : Option (HostEvent × State) :=
  match s.host with
  | [] => none
  | e :: es => some (e, s.setHost es)

/-- The host presents the command `c` before anything else it has in hand. -/
def presentNext (c : Command) (s : State) : State := s.setHost (.command c :: s.host)

end Sys2Proof.Machine
end

