-- ==== Sys2Proof/Machine/Step.lean ====
section
/-!
DEFINITION. The step: the host's next event, taken whole (20_memory.md R46); between events the BMU does nothing
(60_exceptions.md R185, 70_reset_and_hazards.md R203). While a command waits for a word that does not come, only reset
goes on (R198).
-/

namespace Sys2Proof.Machine

/-- One step. -/
def step (s : State) : Host.Outcome State Fault Refusal :=
  match nextEvent s with
  | none => .next s
  | some (e, s1) => if s1.outstanding then serveOutstanding e s1 else serve e s1

/-- `s` with the command word `w` (of `nbits` bits) as the next command the host presents, with `DIN = 0`, so that
the very next step runs it (logs 1 and 19). -/
def State.withFetchWord (s : State) (nbits w : Nat) : State :=
  presentNext { cw := BitVec.ofNat 32 (w % 2 ^ nbits), din := 0 } s

end Sys2Proof.Machine
end

