-- ==== Sys2Proof/Safety.lean ====
section
/-!
DEFINITION. What counts as a safe run, in the terms the claims use: the invariant of the state, the legal response
and cause codes, a run without a fault, and a word source that answers.
-/

namespace Sys2Proof.Machine

/-- The codes a response and `CAUSE` can carry (R27, R167, 93_implementation_defined.md V1, V2). -/
def legalCodes : List (BitVec 4) := [0, 1, 2, 3, 5, 6]

/-- A response the BMU can give (R61, R167, R170): a legal code, and `DOUT = 0` when it is a fault. -/
def Response.Legal (r : Response) : Prop := r.status ∈ legalCodes ∧ (r.status ≠ 0 → r.dout = 0)

/-- What holds of every state a run reaches. -/
structure State.Inv (s : State) : Prop where
  /-- The cursor is one of 0, 4, ..., 60 (R30, V8). -/
  cursor : s.fidx.toNat % 4 = 0
  /-- `CAUSE` holds a legal code (R27). -/
  cause : s.cause ∈ legalCodes
  /-- `FLT` is set exactly when `CAUSE` names a fault (R26, R27, R155, R170). -/
  flag : s.flt = true ↔ s.cause ≠ 0
  /-- Without a fault on record `ECMD` is 0 (R28). -/
  record : s.flt = false → s.ecmd = 0
  /-- Before the first FSEED since reset the Feistel state has its reset value (R30, R31, R37). -/
  unseeded : s.fvalid = false → s.fstate = 0 ∧ s.fkey = 0 ∧ s.fctr = 0 ∧ s.fidx = 0
  /-- A command is outstanding only because the word source is silent (R198). -/
  waiting : s.outstanding = true → s.source.queued = [] ∧ s.source.after = .silent
  /-- Every response returned was a legal one (R167, R170). -/
  responses : ∀ r ∈ s.responses, r.Legal

/-- No command since the start of the response log faulted (R177: stated over the responses, not over `FLT`). -/
def State.NoFault (s : State) : Prop := ∀ r ∈ s.responses, r.status = 0

/-- The word source answers the next `n` pulls (R198). -/
def State.Answers (s : State) (n : Nat) : Prop :=
  s.source.after = .free ∨ n ≤ s.source.queued.length

/-- The next `n` words of the word source, in order, as far as it answers (R6, R13). -/
def upcoming : Nat → Source → List Word
  | 0, _ => []
  | n + 1, src =>
    match sourceNext src with
    | some (x, src1) => x :: upcoming n src1
    | none => []

end Sys2Proof.Machine
end

