-- ==== Sys2Proof/Certificates/Slice0/Vocabulary.lean ====
section
/-!
DEFINITION. The words the statements are written in: the spec's own tables and formulas over plain counts, bits and
numbers, apart from the functions the meanings are built of, so that a statement compares two texts.
-/

namespace Sys2Proof.Claims

open Sys2Proof.Machine

/-! ### What a command leaves unchanged, and how it ends -/

/-- The Feistel state and `fvalid` are unchanged (R30, R31). -/
def FeistelKept (s t : State) : Prop :=
  t.fstate = s.fstate ∧ t.fkey = s.fkey ∧ t.fctr = s.fctr ∧ t.fidx = s.fidx ∧ t.fvalid = s.fvalid

/-- The fault record is unchanged (R26 to R28). -/
def RecordKept (s t : State) : Prop := t.flt = s.flt ∧ t.cause = s.cause ∧ t.ecmd = s.ecmd

/-- Every wide register is unchanged. -/
def RegistersKept (s t : State) : Prop := ∀ q, t.getW q = s.getW q

/-- Every wide register but `rd` is unchanged. -/
def OthersKept (rd : RegNum) (s t : State) : Prop := ∀ q, q ≠ rd → t.getW q = s.getW q

/-- The host's schedule and the command on the port are unchanged, and whether one is outstanding. -/
def PortKept (s t : State) : Prop := t.cmd = s.cmd ∧ t.host = s.host ∧ t.outstanding = s.outstanding

/-- Exactly `n` words were pulled: `PULLS` grew by `n` modulo `2^64` and the word source moved on by `n` words
(R13, R34). -/
def Pulled (n : Nat) (s t : State) : Prop :=
  t.pulls = s.pulls + BitVec.ofNat 64 n ∧ t.source = dropWords n s.source

/-- Exactly one response was returned (R55). -/
def Responded (status : BitVec 4) (dout : Word) (s t : State) : Prop :=
  t.responses = s.responses ++ [{ status := status, dout := dout }]

/-- The command succeeded, wrote `W[rd]` and nothing else, and pulled `n` words; `DOUT` is the low 64 bits of the
value written (R57, R61). -/
structure Wrote (rd : RegNum) (n : Nat) (s t : State) : Prop where
  others : OthersKept rd s t
  response : Responded 0 ((t.getW rd).setWidth 64) s t
  feistel : FeistelKept s t
  record : RecordKept s t
  pulled : Pulled n s t
  port : PortKept s t

/-- The command succeeded with `DOUT = dout` and changed nothing. -/
structure Quiet (dout : Word) (s t : State) : Prop where
  registers : RegistersKept s t
  response : Responded 0 dout s t
  feistel : FeistelKept s t
  record : RecordKept s t
  pulled : Pulled 0 s t
  port : PortKept s t

/-- The command raised the fault with code `code` (R170): the response and the record, nothing else. -/
structure Faulted (code : BitVec 4) (s t : State) : Prop where
  response : Responded code 0 s t
  flt : t.flt = true
  cause : t.cause = code
  ecmd : t.ecmd = s.cmd.cw
  registers : RegistersKept s t
  feistel : FeistelKept s t
  pulled : Pulled 0 s t
  port : PortKept s t

/-- The command waits for one of its `n` words, which the source does not return (R198): it is outstanding, no response
is returned and nothing is written; the words that came are gone from the source and counted in `PULLS`. -/
structure Waiting (n : Nat) (s t : State) : Prop where
  outstanding : t.outstanding = true
  responses : t.responses = s.responses
  registers : RegistersKept s t
  feistel : FeistelKept s t
  record : RecordKept s t
  source : t.source = dropWords n s.source
  pulls : t.pulls = s.pulls + BitVec.ofNat 64 (upcoming n s.source).length
  cmd : t.cmd = s.cmd
  host : t.host = s.host

/-! ### The spec's counts and bit laws -/

/-- `N = 64 << ws` (R57). -/
def widthOf (ws : Width) : Nat := 64 <<< wsCode ws

/-- The number of set bits of `v` at positions below `i`. -/
def countSet {n : Nat} (v : BitVec n) (i : Nat) : Nat := ((List.range i).filter fun k => v.getLsbD k).length

/-- `r` holds the bits of `v` at the positions of `m` below `n`, packed low in rising position, and zeros above
(R78). -/
def Gathered (n : Nat) (v m r : Wide) : Prop :=
  (∀ i, i < n → m.getLsbD i = true → r.getLsbD (countSet m i) = v.getLsbD i) ∧
  (∀ j, countSet m n ≤ j → r.getLsbD j = false)

/-- `r` holds the bits of the stream `b`, from bit 0 on, at the positions of `m` below `n`, lowest first, and zeros
elsewhere (R79). -/
def Scattered (n : Nat) (b m r : Wide) : Prop :=
  (∀ i, i < n → m.getLsbD i = true → r.getLsbD i = b.getLsbD (countSet m i)) ∧
  (∀ i, ¬ (i < n ∧ m.getLsbD i = true) → r.getLsbD i = false)

/-- The mask checks of R85 by count. -/
def maskTable (n budget : Nat) (m : Wide) : BitVec 4 :=
  if countSet m n = 0 then 1 else if budget < countSet m n then 2 else 0

/-- The checks of CONSTRUCT in the order of R104, by count. -/
def constructTable (t : Nat) (m : Wide) : BitVec 4 :=
  if countSet m 64 = 0 then 1
  else if countSet m 64 > t then 2
  else if t > 64 then 3
  else if t % countSet m 64 ≠ 0 then 3
  else 0

/-- The table of R171: the code of the fault a decoded command raises, 0 for none. -/
def faultTable : Instr → State → BitVec 4
  | .nop, _ | .ldz _, _ | .wrl _ _, _ | .rdl _ _, _ | .clrf, _ => 0
  | .rdcsr _ csr, _ => if csr > 7 then 5 else 0
  | .popcnt _ _ _, _ | .tzcnt _ _ _, _ => 0
  | .pext ws _ _ rs2 b, s | .pdep ws _ _ rs2 b, s =>
    maskTable (widthOf ws) (if b = 0 then widthOf ws else b) (s.getW rs2)
  | .trunc _ n, _ | .shift _ n, _ => if n = 0 ∨ n ≥ 64 then 3 else 0
  | .mext8 _ rs2, s => maskTable 64 8 (s.getW rs2)
  | .mext16 _ rs2, s => maskTable 64 16 (s.getW rs2)
  | .mext32 _ rs2, s => maskTable 64 32 (s.getW rs2)
  | .mext63 _ rs2, s => maskTable 64 63 (s.getW rs2)
  | .sponge _ w, _ => if w = 1 ∨ w = 2 ∨ w = 4 ∨ w = 8 ∨ w = 16 ∨ w = 32 then 0 else 3
  | .construct _ rs2 t, s => constructTable t (s.getW rs2)
  | .slice2 _ _, _ | .slice4 _ _, _ | .slice8 _ _, _ | .concat _ _, _ | .mixexp _ _, _ => 0
  | .spread ws _ rs2, s => maskTable (widthOf ws) 64 (s.getW rs2)
  | .fseed, _ => 0
  | .fblk _, s => if s.fvalid = false then 6 else 0

/-- The table of R199: how many words a decoded command pulls; none when it faults. -/
def pullTable (i : Instr) (s : State) : Nat :=
  if faultTable i s ≠ 0 then 0 else
  match i with
  | .nop | .ldz _ | .wrl _ _ | .rdl _ _ | .rdcsr _ _ | .clrf => 0
  | .popcnt _ _ _ | .tzcnt _ _ _ | .pext _ _ _ _ _ | .pdep _ _ _ _ _ => 0
  | .slice2 _ _ | .slice4 _ _ | .slice8 _ _ | .fblk _ => 0
  | .trunc _ _ | .shift _ _ | .mext8 _ _ | .mext16 _ _ | .mext32 _ _ | .mext63 _ _ | .sponge _ _ => 1
  | .mixexp _ _ | .spread _ _ _ => 1
  | .concat ws _ => widthOf ws / 64
  | .fseed => 3
  | .construct _ rs2 t => t / countSet (s.getW rs2) 64

/-- The wide register a command writes when it succeeds (R22). -/
def destination : Instr → Option RegNum
  | .nop | .rdl _ _ | .clrf | .fseed => none
  | .ldz rd | .wrl rd _ | .rdcsr rd _ => some rd
  | .popcnt _ rd _ | .tzcnt _ rd _ | .pext _ rd _ _ _ | .pdep _ rd _ _ _ => some rd
  | .trunc rd _ | .shift rd _ | .mext8 rd _ | .mext16 rd _ | .mext32 rd _ | .mext63 rd _ => some rd
  | .sponge rd _ | .construct rd _ _ | .slice2 rd _ | .slice4 rd _ | .slice8 rd _ => some rd
  | .concat _ rd | .mixexp _ rd | .spread _ rd _ | .fblk rd => some rd

/-- The register operands of a command (R22): each register it reads and how many of its low bits; WRL keeps the other
lanes of its destination. -/
def operands : Instr → List (RegNum × Nat)
  | .nop | .ldz _ | .rdcsr _ _ | .clrf => []
  | .wrl rd _ => [(rd, 512)]
  | .rdl rs1 lane => [(rs1, 64 * lane.val + 64)]
  | .popcnt ws _ rs1 | .tzcnt ws _ rs1 => [(rs1, widthOf ws)]
  | .pext ws _ rs1 rs2 _ | .pdep ws _ rs1 rs2 _ => [(rs1, widthOf ws), (rs2, widthOf ws)]
  | .trunc _ _ | .shift _ _ | .sponge _ _ => []
  | .mext8 _ rs2 | .mext16 _ rs2 | .mext32 _ rs2 | .mext63 _ rs2 | .construct _ rs2 _ => [(rs2, 64)]
  | .slice2 _ rs1 | .slice4 _ rs1 | .slice8 _ rs1 => [(rs1, 64)]
  | .concat _ _ | .mixexp _ _ | .fseed | .fblk _ => []
  | .spread ws _ rs2 => [(rs2, widthOf ws)]

/-- Two states agree in the register operands of a command. -/
def OperandsAgree (i : Instr) (s u : State) : Prop :=
  ∀ p ∈ operands i, (u.getW p.1).setWidth p.2 = (s.getW p.1).setWidth p.2

/-- The value of CSR `n` as the table of R25 lays it out. -/
def csrTable (n : Nat) (s : State) : Nat :=
  match n with
  | 0 => s.flt.toNat + 2 * s.fvalid.toNat
  | 1 => s.cause.toNat
  | 2 => s.ecmd.toNat
  | 3 => s.fstate.toNat
  | 4 => s.fkey.toNat
  | 5 => s.fctr.toNat
  | 6 => s.fidx.toNat
  | _ => s.pulls.toNat

/-! ### The Feistel stream as a classic network (R132) -/

/-- The high half. -/
def high (x : Word) : Half := BitVec.ofNat 32 (x.toNat / 2 ^ 32)

/-- The low half. -/
def low (x : Word) : Half := BitVec.ofNat 32 x.toNat

/-- One round of a classic Feistel network: `(L, R)` to `(R, L xor F(R, k))`. -/
def classicRound (F : Half → Half → Half) (h : Half × Half) (k : Half) : Half × Half := (h.2, h.1 ^^^ F h.2 k)

/-- Two rounds under the low, then the high half of the key, the halves put together again. -/
def twoRounds (F : Half → Half → Half) (state key : Word) : Word :=
  let h := classicRound F (classicRound F (high state, low state) (low key)) (high key)
  h.1 ++ h.2

/-- One iteration of the stream on (`fstate`, `fkey`): two rounds, then the swap. -/
def iteration (F : Half → Half → Half) (sk : Word × Word) : Word × Word := (sk.2, twoRounds F sk.1 sk.2)

/-- `F_ref(x, k) = rotl32(x, 7) xor k` (R134), the rotation by arithmetic. -/
def referenceF (x k : Half) : Half :=
  BitVec.ofNat 32 (x.toNat * 2 ^ 7 % 2 ^ 32 + x.toNat / 2 ^ 25) ^^^ k

/-- `(fstate, fkey)` after the iterations of the next block (R133). -/
def afterIterations (F : Half → Half → Half) (s : State) : Word × Word :=
  (iteration F)^[1 + s.fctr.toNat / 2 ^ s.fidx.toNat % 16] (s.fstate, s.fkey)

/-- What a block leaves (R133): `out` in `W[rd]` and `DOUT`; the cursor moved by 4 modulo 64; the counter and the
state swapped, after `out` was taken, when the cursor comes back to 0; everything else as before. -/
structure Blocked (F : Half → Half → Half) (rd : RegNum) (s t : State) : Prop where
  result : t.getW rd = (afterIterations F s).1.setWidth 512
  others : OthersKept rd s t
  response : Responded 0 (afterIterations F s).1 s t
  key : t.fkey = (afterIterations F s).2
  cursor : t.fidx.toNat = (s.fidx.toNat + 4) % 64
  swapped : (s.fidx.toNat + 4) % 64 = 0 → t.fstate = s.fctr ∧ t.fctr = (afterIterations F s).1
  unswapped : (s.fidx.toNat + 4) % 64 ≠ 0 → t.fstate = (afterIterations F s).1 ∧ t.fctr = s.fctr
  valid : t.fvalid = s.fvalid
  record : RecordKept s t
  pulled : Pulled 0 s t
  port : PortKept s t

/-- The architectural state of R20 is that of reset (R37), and no command is outstanding (R191). -/
structure AtReset (t : State) : Prop where
  registers : ∀ q, t.getW q = 0
  fstate : t.fstate = 0
  fkey : t.fkey = 0
  fctr : t.fctr = 0
  fidx : t.fidx = 0
  fvalid : t.fvalid = false
  flt : t.flt = false
  cause : t.cause = 0
  ecmd : t.ecmd = 0
  pulls : t.pulls = 0
  outstanding : t.outstanding = false

/-! ### The field layout (R57, R67) -/

/-- The number in `op` of a command (R63). -/
def opNumber : Instr → Nat
  | .nop => 0x00 | .ldz _ => 0x01 | .wrl _ _ => 0x02 | .rdl _ _ => 0x03 | .rdcsr _ _ => 0x04 | .clrf => 0x05
  | .popcnt _ _ _ => 0x10 | .tzcnt _ _ _ => 0x11 | .pext _ _ _ _ _ => 0x12 | .pdep _ _ _ _ _ => 0x13
  | .trunc _ _ => 0x20 | .shift _ _ => 0x21
  | .mext8 _ _ | .mext16 _ _ | .mext32 _ _ | .mext63 _ _ => 0x22
  | .sponge _ _ => 0x23 | .construct _ _ _ => 0x24
  | .slice2 _ _ | .slice4 _ _ | .slice8 _ _ => 0x25
  | .concat _ _ => 0x30 | .mixexp _ _ => 0x31 | .spread _ _ _ => 0x32 | .fseed => 0x38 | .fblk _ => 0x39

/-- The number in `ws`: the width's, or the one the mnemonic fixes (R63). -/
def wsNumber : Instr → Nat
  | .popcnt ws _ _ | .tzcnt ws _ _ | .pext ws _ _ _ _ | .pdep ws _ _ _ _ => wsCode ws
  | .concat ws _ | .mixexp ws _ | .spread ws _ _ => wsCode ws
  | .mext16 _ _ | .slice2 _ _ => 1
  | .mext32 _ _ | .slice4 _ _ => 2
  | .mext63 _ _ | .slice8 _ _ => 3
  | _ => 0

/-- The number in `rd`. -/
def rdNumber (i : Instr) : Nat :=
  match destination i with
  | some rd => rd.val
  | none => 0

/-- The number in `rs1` (R22). -/
def rs1Number : Instr → Nat
  | .rdl rs1 _ | .popcnt _ _ rs1 | .tzcnt _ _ rs1 | .pext _ _ rs1 _ _ | .pdep _ _ rs1 _ _ => rs1.val
  | .slice2 _ rs1 | .slice4 _ rs1 | .slice8 _ rs1 => rs1.val
  | _ => 0

/-- The number in `rs2`, always the mask (R22, R57). -/
def rs2Number : Instr → Nat
  | .pext _ _ _ rs2 _ | .pdep _ _ _ rs2 _ | .construct _ rs2 _ | .spread _ _ rs2 => rs2.val
  | .mext8 _ rs2 | .mext16 _ rs2 | .mext32 _ rs2 | .mext63 _ rs2 => rs2.val
  | _ => 0

/-- `op | ws<<8 | rd<<10 | rs1<<13 | rs2<<16 | imm<<19` (R67), the fields being disjoint. -/
def layoutNumber (i : Instr) : Nat :=
  opNumber i + wsNumber i * 2 ^ 8 + rdNumber i * 2 ^ 10 + rs1Number i * 2 ^ 13 + rs2Number i * 2 ^ 16 +
    i.imm * 2 ^ 19

/-- The number of low bits the result of a command can occupy (R21, R57); WRL keeps lanes and is not meant. -/
def resultBits : Instr → Nat
  | .popcnt ws _ _ | .tzcnt ws _ _ | .pext ws _ _ _ _ | .pdep ws _ _ _ _ => widthOf ws
  | .concat ws _ | .mixexp ws _ | .spread ws _ _ => widthOf ws
  | .slice2 _ _ => 96
  | .slice4 _ _ => 208
  | .slice8 _ _ => 456
  | .wrl _ _ => 512
  | _ => 64

/-! ### Outcomes -/

/-- An outcome with a function applied to its next state. -/
def onNext (f : State → State) : Host.Outcome State Fault Refusal → Host.Outcome State Fault Refusal
  | .next t => .next (f t)
  | .fault r => .fault r
  | .refused r => .refused r

/-- The state with another `DIN` on the port. -/
def withDin (d : Word) (s : State) : State := { s with cmd := { s.cmd with din := d } }

/-! ### Scatter by scanning (R79) -/

/-- The scanning form of scatter: the trailing-zero count of the working mask finds the next free position, the
next stream bit goes there, and the position is cleared from the working copy. -/
def scanScatter {n : Nat} (b : BitVec n) : (fuel : Nat) → (work r : BitVec n) → (k : Nat) → BitVec n
  | 0, _, r, _ => r
  | fuel + 1, work, r, k =>
    if work = 0 then r
    else
      let p := tz work
      scanScatter b fuel (work &&& ~~~(BitVec.twoPow n p))
        (if b.getLsbD k then r ||| BitVec.twoPow n p else r) (k + 1)

/-! ### A list of commands -/

/-- The commands of a list, one after the other, as long as each answers. -/
def runAll : List Command → State → Option State
  | [], s => some s
  | c :: cs, s =>
    match runCommand c s with
    | .next t => runAll cs t
    | _ => none

end Sys2Proof.Claims
end

