-- ==== Sys2Proof/Machine/Assembler.lean ====
section
/-!
DEFINITION. The assembler syntax of the spec and its pseudo-instructions (30_encoding.md R67, R68): from one line of
text to the commands the host presents. A line is a list of characters. Where R67 leaves a convention open
(blanks, an empty line, a number too large for its field) log 18 says what the model does.
-/

namespace Sys2Proof.Machine

/-! ### Characters, words and numbers -/

/-- A blank between words. -/
def isBlank (c : Char) : Bool := c == ' ' || c == '\t'

/-- A piece of text without the blanks around it. -/
def trimBlanks (cs : List Char) : List Char := ((cs.dropWhile isBlank).reverse.dropWhile isBlank).reverse

/-- The pieces of a text between occurrences of `sep`, at least one. -/
def splitAtSep (sep : Char) : List Char → List (List Char)
  | [] => [[]]
  | c :: cs =>
    if c == sep then [] :: splitAtSep sep cs
    else
      match splitAtSep sep cs with
      | [] => [[c]]
      | p :: ps => (c :: p) :: ps

/-- The value of a digit of a base up to sixteen. -/
def digitValue (base : Nat) (c : Char) : Option Nat :=
  let n := c.toNat
  let d :=
    if 48 ≤ n ∧ n ≤ 57 then n - 48
    else if 97 ≤ n ∧ n ≤ 102 then n - 87
    else if 65 ≤ n ∧ n ≤ 70 then n - 55
    else 16
  if d < base then some d else none

/-- The number a list of digits writes, `acc` standing for the digits before. -/
def digitsValue (base : Nat) : (acc : Nat) → List Char → Option Nat
  | acc, [] => some acc
  | acc, c :: cs =>
    match digitValue base c with
    | some d => digitsValue base (acc * base + d) cs
    | none => none

/-- A number: hexadecimal with `0x`, binary with `0b`, else decimal (R67). -/
def numberOf (cs : List Char) : Option Nat :=
  match cs with
  | '0' :: 'x' :: d :: ds => digitsValue 16 0 (d :: ds)
  | '0' :: 'b' :: d :: ds => digitsValue 2 0 (d :: ds)
  | d :: ds => digitsValue 10 0 (d :: ds)
  | [] => none

/-- A number below a limit. -/
def numberBelow (limit : Nat) (cs : List Char) : Option Nat :=
  match numberOf cs with
  | some n => if n < limit then some n else none
  | none => none

/-- A register `w0` to `w7` (R67). -/
def registerOf (cs : List Char) : Option RegNum :=
  match cs with
  | ['w', d] =>
    match digitValue 8 d with
    | some n => some (Fin.ofNat 8 n)
    | none => none
  | _ => none

/-- A lane number 0 to 7. -/
def laneNumberOf (cs : List Char) : Option LaneNum :=
  match numberBelow 8 cs with
  | some n => some (Fin.ofNat 8 n)
  | none => none

/-- An immediate that fits its ten bits. -/
def immediateOf (cs : List Char) : Option Nat := numberBelow immLimit cs

/-- The names of the CSRs and their numbers (R25, R67). -/
def csrNames : List (List Char × Nat) :=
  [ (['s', 't', 'a', 't', 'u', 's'], 0), (['c', 'a', 'u', 's', 'e'], 1), (['e', 'c', 'm', 'd'], 2),
    (['f', 's', 't', 'a', 't', 'e'], 3), (['f', 'k', 'e', 'y'], 4), (['f', 'c', 't', 'r'], 5),
    (['f', 'i', 'd', 'x'], 6), (['p', 'u', 'l', 'l', 's'], 7) ]

/-- A CSR by name or number (R67). -/
def csrOf (cs : List Char) : Option Nat :=
  match csrNames.lookup cs with
  | some n => some n
  | none => immediateOf cs

/-- A width suffix (R67). -/
def suffixOf (cs : List Char) : Option Width :=
  match cs with
  | ['6', '4'] => some .w64
  | ['1', '2', '8'] => some .w128
  | ['2', '5', '6'] => some .w256
  | ['5', '1', '2'] => some .w512
  | _ => none

/-! ### Operands -/

/-- One register. -/
def regArg (ops : List (List Char)) (k : RegNum → Instr) : Option Instr :=
  match ops with
  | [a] => (registerOf a).map k
  | _ => none

/-- Two registers. -/
def regRegArg (ops : List (List Char)) (k : RegNum → RegNum → Instr) : Option Instr :=
  match ops with
  | [a, b] => (registerOf a).bind fun x => (registerOf b).map fun y => k x y
  | _ => none

/-- A register and an immediate. -/
def regImmArg (ops : List (List Char)) (k : RegNum → Nat → Instr) : Option Instr :=
  match ops with
  | [a, b] => (registerOf a).bind fun x => (immediateOf b).map fun n => k x n
  | _ => none

/-- Three registers and an optional budget, 0 when it is omitted (R67). -/
def budgetArg (ops : List (List Char)) (k : RegNum → RegNum → RegNum → Nat → Instr) : Option Instr :=
  match ops with
  | [a, b, c] =>
    (registerOf a).bind fun x => (registerOf b).bind fun y => (registerOf c).map fun z => k x y z 0
  | [a, b, c, d] =>
    (registerOf a).bind fun x => (registerOf b).bind fun y => (registerOf c).bind fun z =>
      (immediateOf d).map fun n => k x y z n
  | _ => none

/-- No operand. -/
def noArg (ops : List (List Char)) (i : Instr) : Option Instr :=
  match ops with
  | [] => some i
  | _ => none

/-! ### Commands -/

/-- A mnemonic without a suffix whose command takes no `DIN` (R67). -/
def plainForm (m : String) (ops : List (List Char)) : Option Instr :=
  match m with
  | "nop" => noArg ops .nop
  | "clrf" => noArg ops .clrf
  | "fseed" => noArg ops .fseed
  | "rdl" =>
    match ops with
    | [a, b] => (registerOf a).bind fun x => (laneNumberOf b).map fun j => .rdl x j
    | _ => none
  | "rdcsr" =>
    match ops with
    | [a, b] => (registerOf a).bind fun x => (csrOf b).map fun n => .rdcsr x n
    | _ => none
  | "trunc" => regImmArg ops .trunc
  | "shift" => regImmArg ops .shift
  | "mext8" => regRegArg ops .mext8
  | "mext16" => regRegArg ops .mext16
  | "mext32" => regRegArg ops .mext32
  | "mext63" => regRegArg ops .mext63
  | "sponge" => regImmArg ops .sponge
  | "construct" =>
    match ops with
    | [a, b, c] =>
      (registerOf a).bind fun x => (registerOf b).bind fun y => (immediateOf c).map fun n => .construct x y n
    | _ => none
  | "slice2" => regRegArg ops .slice2
  | "slice4" => regRegArg ops .slice4
  | "slice8" => regRegArg ops .slice8
  | "fblk" => regArg ops .fblk
  | "pull" => regArg ops fun x => .concat .w64 x
  | _ => none

/-- A mnemonic with a width suffix (R67). -/
def widthForm (m : String) (ws : Width) (ops : List (List Char)) : Option Instr :=
  match m with
  | "popcnt" => regRegArg ops (.popcnt ws)
  | "tzcnt" => regRegArg ops (.tzcnt ws)
  | "pext" => budgetArg ops (.pext ws)
  | "pdep" => budgetArg ops (.pdep ws)
  | "concat" => regArg ops (.concat ws)
  | "mixexp" => regArg ops (.mixexp ws)
  | "spread" => regRegArg ops (.spread ws)
  | _ => none

/-- A command whose `DIN` does not matter (R60), presented with `DIN = 0`. -/
def commandOf (i : Instr) : Command := { cw := encode i, din := 0 }

/-- `ldz wd, value`. -/
def ldzCommand (rd : RegNum) (value : Word) : Command := { cw := encode (.ldz rd), din := value }

/-- `wrl wd, lane, value`. -/
def wrlCommand (rd : RegNum) (lane : LaneNum) (value : Word) : Command :=
  { cw := encode (.wrl rd lane), din := value }

/-- The expansion of `pull wd` (R68): one raw source word. -/
def pullCommands (rd : RegNum) : List Command := [commandOf (.concat .w64 rd)]

/-- The expansion of `clr wd` (R68). -/
def clrCommands (rd : RegNum) : List Command := [ldzCommand rd 0]

/-- The WRL part of `ldw` for one lane: only where the lane is nonzero (R68). -/
def ldwLane (rd : RegNum) (v : Wide) (j : LaneNum) : List Command :=
  if v.extractLsb' (64 * j.val) 64 = 0 then [] else [wrlCommand rd j (v.extractLsb' (64 * j.val) 64)]

/-- The expansion of `ldw wd, v` (R68, R195): LDZ of the low lane, then WRL of the nonzero lanes, rising. -/
def ldwCommands (rd : RegNum) (v : Wide) : List Command :=
  ldzCommand rd (v.setWidth 64) ::
    (ldwLane rd v 1 ++ ldwLane rd v 2 ++ ldwLane rd v 3 ++ ldwLane rd v 4 ++ ldwLane rd v 5 ++
      ldwLane rd v 6 ++ ldwLane rd v 7)

/-- The lines that carry a value in `DIN` or stand for several commands (R67, R68). DESIGN CHOICE (log 18; safe): R68
gives `ldw` for values wider than 64 bits only, and a narrower value is accepted here too, by the same expansion. -/
def valueForm (m : String) (ops : List (List Char)) : Option (List Command) :=
  match m, ops with
  | "ldz", [a, b] =>
    (registerOf a).bind fun x => (numberBelow (2 ^ 64) b).map fun n => [ldzCommand x (BitVec.ofNat 64 n)]
  | "wrl", [a, b, c] =>
    (registerOf a).bind fun x => (laneNumberOf b).bind fun j =>
      (numberBelow (2 ^ 64) c).map fun n => [wrlCommand x j (BitVec.ofNat 64 n)]
  | "clr", [a] => (registerOf a).map clrCommands
  | "ldw", [a, b] =>
    (registerOf a).bind fun x => (numberBelow (2 ^ 512) b).map fun n => ldwCommands x (BitVec.ofNat 512 n)
  | _, _ => none

/-- The commands of a mnemonic, with or without its suffix, and its operands. -/
def commandsOf (head : List Char) (ops : List (List Char)) : Option (List Command) :=
  match splitAtSep '.' head with
  | [m] =>
    match plainForm (String.ofList m) ops with
    | some i => some [commandOf i]
    | none => valueForm (String.ofList m) ops
  | [m, n] =>
    (suffixOf n).bind fun ws => (widthForm (String.ofList m) ws ops).map fun i => [commandOf i]
  | _ => none

/-- One line of assembly (R67): the commands it stands for; none when it is no line of the syntax. -/
def assemble (line : List Char) : Option (List Command) :=
  let text := trimBlanks (line.takeWhile (· != ';'))
  let head := text.takeWhile (fun c => !isBlank c)
  let rest := trimBlanks (text.dropWhile (fun c => !isBlank c))
  if text.isEmpty then some []
  else commandsOf head (if rest.isEmpty then [] else (splitAtSep ',' rest).map trimBlanks)

end Sys2Proof.Machine
end

