-- ==== Sys2Proof/Certificates/Slice0/Obligations.lean ====
section
/-!
DEFINITION. The statements for the provers. Each docstring names the rules it formalises; the words are those of
Vocabulary.lean.
-/

open Sys2Proof Sys2Proof.Machine Sys2Proof.Claims

/-! ### Encoding and decoding -/

/-- R57, R62, R63: no field of a well-formed command is dropped by the encoding. -/
def Obligations.DecodeOfEncodeIsTheCommand : Prop :=
  ∀ i : Instr, i.WellFormed → decode (encode i) = .ok i

/-- R62, R64: no bit of a command word is ignored: a word that decodes is the encoding of its command. -/
def Obligations.EncodeOfDecodeIsTheWord : Prop :=
  ∀ (cw : CmdWord) (i : Instr), decode cw = .ok i → encode i = cw ∧ i.WellFormed

/-- R57, R67: the command word is `op | ws<<8 | rd<<10 | rs1<<13 | rs2<<16 | imm<<19`, field by field. -/
def Obligations.EncodingFollowsTheFieldLayout : Prop :=
  ∀ i : Instr, i.WellFormed → (encode i).toNat = layoutNumber i

/-- R62: a word is a row's command exactly when `CW & mask = match`, at most one row matches, and a word that
matches no row is no command. -/
def Obligations.DecodingIsMaskAndMatch : Prop :=
  (∀ (cw : CmdWord) (i : Instr), decode cw = .ok i ↔ ∃ r ∈ opRows, cw &&& r.mask = r.pat ∧ r.build cw = i) ∧
  (∀ (cw : CmdWord) (a b : Nat) (ha : a < opRows.length) (hb : b < opRows.length),
    opRows[a].hits cw = true → opRows[b].hits cw = true → a = b) ∧
  (∀ cw : CmdWord, (∀ r ∈ opRows, cw &&& r.mask ≠ r.pat) ↔ ∃ e, decode cw = .error e)

/-- R65: the words with an unassigned `op`, a nonzero `rsv`, SLICE with `ws = 0`, and WRL or RDL with a lane above
7 match no row. -/
def Obligations.ReservedWordsMatchNoRow : Prop :=
  ∀ cw : CmdWord,
    (cw.toNat % 256 ∉ assignedOps ∨ cw.toNat / 2 ^ 29 ≠ 0 ∨
      (cw.toNat % 256 = 0x25 ∧ cw.toNat / 2 ^ 8 % 4 = 0) ∨
      ((cw.toNat % 256 = 0x02 ∨ cw.toNat % 256 = 0x03) ∧ cw.toNat / 2 ^ 19 % 2 ^ 10 > 7)) →
    ∀ r ∈ opRows, cw &&& r.mask ≠ r.pat

/-- Words written out from R57 and R63 (95_test_vectors.md): one of every family. -/
def Obligations.SpecWordsDecodeToTheirCommands : Prop :=
  decode 0x00000000 = .ok .nop ∧
  decode 0x00380C02 = .ok (.wrl 3 7) ∧
  decode 0x00022C12 = .ok (.pext .w64 3 1 2 0) ∧
  decode 0x00471024 = .ok (.construct 4 7 8) ∧
  decode 0x00004625 = .ok (.slice4 1 2) ∧
  decode 0x00031132 = .ok (.spread .w128 4 3) ∧
  decode 0x00000439 = .ok (.fblk 1)

/-! ### The step -/

/-- R46, R51, R55: with no command outstanding, a presented word that decodes is executed, with the command on the port
and the event taken from the host's schedule, and nothing else. A seed call changes the word source alone (R6, R49): its
words are not known any more, and whether it answers is the event's to say (log 12). What the spec gives no meaning,
a second command or a seed while one is outstanding, is refused (R196, U2, U3; log 11). Between the host's events
nothing happens (R185, R203). The schedule and the idle step are the model's form (logs 1 and 2). -/
def Obligations.StepServesTheHostsNextEvent : Prop :=
  (∀ (s : State) (c : Command) (es : List HostEvent) (i : Instr), s.outstanding = false → s.host = .command c :: es →
    decode c.cw = .ok i → step s = exec i { s with host := es, cmd := c }) ∧
  (∀ (s : State) (value : Word) (after : AfterQueue) (es : List HostEvent), s.outstanding = false →
    s.host = .seed value after :: es → ∃ t, step s = .next t ∧
      t.source = { queued := [], after := after, seed := some value, drawn := s.source.drawn } ∧ t.host = es ∧
      RegistersKept s t ∧ FeistelKept s t ∧ RecordKept s t ∧ t.pulls = s.pulls ∧ t.responses = s.responses ∧
      t.cmd = s.cmd ∧ t.outstanding = false) ∧
  (∀ (s : State) (c d : Command) (es : List HostEvent), s.host = .overlap c d :: es →
    step s = .refused .overlappedCommand) ∧
  (∀ (s : State) (c : Command) (value : Word) (es : List HostEvent), s.outstanding = false →
    s.host = .seedDuring c value :: es → step s = .refused .seedDuringCommand) ∧
  (∀ s : State, s.host = [] → step s = .next s)

/-- R55, R177, R198: a step never withdraws a response; a presented command that does not stay outstanding adds exactly
one, and nothing else adds any. The list of responses is the model's form (log 5). -/
def Obligations.ResponsesAreNeverWithdrawn : Prop :=
  ∀ s t : State, step s = .next t →
    ((∃ c es, s.host = .command c :: es) →
      (t.outstanding = false ∧ ∃ r, t.responses = s.responses ++ [r]) ∨
      (t.outstanding = true ∧ t.responses = s.responses)) ∧
    ((∀ c es, s.host ≠ .command c :: es) → t.responses = s.responses)

/-! ### Reset -/

/-- R37, R191: after reset every piece of state of R20 is zero, and no command is outstanding. -/
def Obligations.ResetStateIsAllZero : Prop := AtReset State.reset

/-- R190, R191, R193, R198: reset puts every piece of the state at its reset value at once, from any state, a command
outstanding on a silent source or not; the word source is not touched and no response is given; that the host's schedule
and the earlier responses stay is the model's form (log 9). -/
def Obligations.ResetEventRestoresTheResetState : Prop :=
  ∀ (s : State) (es : List HostEvent), s.host = .reset :: es →
    ∃ t, step s = .next t ∧ AtReset t ∧ t.source = s.source ∧ t.responses = s.responses ∧ t.host = es

/-- R193 (and log 10): a command interrupted by reset gives no response and writes nothing; the words it had
pulled, at most those of R199's table, are lost. -/
def Obligations.ResetDuringACommandLosesItsWords : Prop :=
  ∀ (s : State) (c : Command) (k : Nat) (es : List HostEvent), s.outstanding = false →
    s.host = .resetDuring c k :: es →
    ∃ t, step s = .next t ∧ AtReset t ∧ t.responses = s.responses ∧ t.host = es ∧
      (∀ i, decode c.cw = .ok i → t.source = dropWords (min k (pullTable i s)) s.source) ∧
      (∀ e, decode c.cw = .error e → t.source = s.source)

/-! ### Faults -/

/-- R171: which command raises which fault, and when; the pair recorded is the code and the command word; a word
that does not decode raises IllegalCommand. -/
def Obligations.FaultTableDecidesEveryCommand : Prop :=
  (∀ (i : Instr) (s : State), faultTable i s ≠ 0 → ∃ t, exec i s = .next t ∧ Faulted (faultTable i s) s t) ∧
  (∀ (i : Instr) (s : State), faultTable i s = 0 → s.Answers (pullTable i s) →
    ∃ t d, exec i s = .next t ∧ Responded 0 d s t) ∧
  (∀ (s : State) (c : Command) (es : List HostEvent) (e : DecodeError), s.outstanding = false →
    s.host = .command c :: es → decode c.cw = .error e →
    ∃ t, step s = .next t ∧ Faulted 5 { s with host := es, cmd := c } t)

/-- R170: a command whose response carries a code other than 0 has changed the record and nothing else. -/
def Obligations.FaultingCommandChangesOnlyTheRecord : Prop :=
  ∀ (i : Instr) (s t : State) (c : BitVec 4) (d : Word), exec i s = .next t → Responded c d s t → c ≠ 0 →
    (c = 1 ∨ c = 2 ∨ c = 3 ∨ c = 5 ∨ c = 6) ∧ Faulted c s t

/-- R104: the checks of CONSTRUCT, in their order, `p` being the population count of the mask. -/
def Obligations.ConstructChecksInOrder : Prop :=
  ∀ (rd rs2 : RegNum) (t : Nat) (s : State) (p : Nat), p = countSet (s.getW rs2) 64 →
    (p = 0 → ∃ u, exec (.construct rd rs2 t) s = .next u ∧ Faulted 1 s u) ∧
    (p > t → p ≠ 0 → ∃ u, exec (.construct rd rs2 t) s = .next u ∧ Faulted 2 s u) ∧
    (t > 64 → p ≠ 0 → ¬ p > t → ∃ u, exec (.construct rd rs2 t) s = .next u ∧ Faulted 3 s u) ∧
    (t % p ≠ 0 → p ≠ 0 → ¬ p > t → ¬ t > 64 → ∃ u, exec (.construct rd rs2 t) s = .next u ∧ Faulted 3 s u) ∧
    (p ≠ 0 → ¬ p > t → ¬ t > 64 → t % p = 0 → s.Answers (t / p) →
      ∃ u d, exec (.construct rd rs2 t) s = .next u ∧ Responded 0 d s u)

/-- R198, R199: every command has a next state. A command waits exactly when it passes its checks and the source does
not answer all its pulls; it then stays outstanding with no response and nothing written. While one waits nothing happens,
reset is the only way out, and a second command or a seed is refused (R196, U2, U3; log 11). -/
def Obligations.SilentSourceLeavesTheCommandOutstanding : Prop :=
  (∀ (i : Instr) (s : State), s.outstanding = false → ∃ t, exec i s = .next t ∧
    (t.outstanding = true ↔ faultTable i s = 0 ∧ ¬ s.Answers (pullTable i s))) ∧
  (∀ (i : Instr) (s : State), faultTable i s = 0 → ¬ s.Answers (pullTable i s) →
    ∃ t, exec i s = .next t ∧ Waiting (pullTable i s) s t) ∧
  (∀ s t : State, s.outstanding = true → step s = .next t →
    (s.host = [] ∧ t = s) ∨ ((∃ es, s.host = .reset :: es) ∧ AtReset t ∧ t.responses = s.responses)) ∧
  (∀ (s : State) (c : Command) (es : List HostEvent), s.outstanding = true → s.host = .command c :: es →
    step s = .refused .overlappedCommand) ∧
  (∀ (s : State) (value : Word) (after : AfterQueue) (es : List HostEvent), s.outstanding = true →
    s.host = .seed value after :: es → step s = .refused .seedDuringCommand)

/-- R34, R198, R199: every command pulls exactly the number of words the table gives, never more than 64; one that waits
has pulled the words that came. -/
def Obligations.PullsFollowTheTable : Prop :=
  ∀ (i : Instr) (s t : State), exec i s = .next t →
    (s.Answers (pullTable i s) → Pulled (pullTable i s) s t) ∧
    (t.source = dropWords (pullTable i s) s.source ∧
      t.pulls = s.pulls + BitVec.ofNat 64 (upcoming (pullTable i s) s.source).length) ∧
    pullTable i s ≤ 64

/-! ### Whole-machine rules -/

/-- R61: `DOUT` of every command that answers, and of a word that is no command; a command whose words come answers. -/
def Obligations.DataOutFollowsTheRule : Prop :=
  (∀ (i : Instr) (s t : State) (c : BitVec 4) (d : Word), exec i s = .next t → Responded c d s t →
    (c ≠ 0 → d = 0) ∧
    (c = 0 →
      (∀ rd, destination i = some rd → (∀ lane, i ≠ .wrl rd lane) → d = (t.getW rd).setWidth 64) ∧
      (∀ rs1 lane, i = .rdl rs1 lane → d = (s.getW rs1).extractLsb' (64 * lane.val) 64) ∧
      ((i = .nop ∨ i = .clrf ∨ i = .fseed ∨ ∃ rd lane, i = .wrl rd lane) → d = 0))) ∧
  (∀ (i : Instr) (s : State), s.Answers (pullTable i s) → ∃ t c d, exec i s = .next t ∧ Responded c d s t) ∧
  (∀ (s : State) (c : Command) (es : List HostEvent) (e : DecodeError), s.outstanding = false →
    s.host = .command c :: es → decode c.cw = .error e → ∃ t, step s = .next t ∧ Responded 5 0 s t)

/-- R22: a command writes no wide register but its destination. -/
def Obligations.OnlyTheDestinationIsWritten : Prop :=
  ∀ (i : Instr) (s t : State), exec i s = .next t → ∀ q, destination i ≠ some q → t.getW q = s.getW q

/-- R21, R57: a command that succeeds and writes a destination register, WRL apart, leaves zeros above its result. -/
def Obligations.ResultsAreZeroAboveTheirWidth : Prop :=
  ∀ (i : Instr) (s t : State) (rd : RegNum) (d : Word), exec i s = .next t → Responded 0 d s t →
    destination i = some rd → (∀ lane, i ≠ .wrl rd lane) → ∀ j, resultBits i ≤ j → (t.getW rd).getLsbD j = false

/-- R29, R30, R31: only FSEED and FBLK write the Feistel state, and only FSEED sets `fvalid`, once its three words have
come (R12). -/
def Obligations.OnlyFseedAndFblkWriteTheFeistelState : Prop :=
  ∀ (i : Instr) (s t : State), exec i s = .next t →
    (i ≠ .fseed → (∀ rd, i ≠ .fblk rd) → FeistelKept s t) ∧
    (i ≠ .fseed → t.fvalid = s.fvalid) ∧ (i = .fseed → s.Answers 3 → t.fvalid = true) ∧
    (i = .fseed → ¬ s.Answers 3 → FeistelKept s t)

/-- R26: the `STATUS` register: every fault sets `FLT`, nothing but CLRF and reset clears it, and what each bit reads
as. -/
def Obligations.StatusRegisterRule : Prop :=
  (∀ (i : Instr) (s t : State), exec i s = .next t →
    t.flt = if faultTable i s ≠ 0 then true else if i = .clrf then false else s.flt) ∧
  (∀ (s : State) (c : Command) (es : List HostEvent) (e : DecodeError) (t : State),
    s.host = .command c :: es → decode c.cw = .error e → step s = .next t → t.flt = true) ∧
  (∀ (s : State) (es : List HostEvent) (t : State), s.host = .reset :: es → step s = .next t → t.flt = false) ∧
  (∀ s t : State, s.flt = true → step s = .next t → t.flt = false →
    (∃ es, s.host = .reset :: es) ∨ (∃ c k es, s.host = .resetDuring c k :: es) ∨
      ∃ c es, s.host = .command c :: es ∧ decode c.cw = .ok .clrf) ∧
  (∀ s : State, ∃ x, csrValue 0 s = some x ∧ x.getLsbD 0 = s.flt ∧ x.getLsbD 1 = s.fvalid ∧
    ∀ k, 2 ≤ k → x.getLsbD k = false)

/-- R27, R28: `CAUSE` and `ECMD` hold the code and the word of the latest fault, or zero after CLRF; code 4 is never
written. -/
def Obligations.RecordHoldsTheLatestFault : Prop :=
  ∀ (i : Instr) (s t : State), exec i s = .next t →
    (faultTable i s ≠ 0 → t.cause = faultTable i s ∧ t.ecmd = s.cmd.cw) ∧
    (faultTable i s = 0 → i = .clrf → t.cause = 0 ∧ t.ecmd = 0) ∧
    (faultTable i s = 0 → i ≠ .clrf → t.cause = s.cause ∧ t.ecmd = s.ecmd) ∧
    (t.cause = 4 → s.cause = 4)

/-- R60: any value of `DIN` gives the same result for every command but LDZ and WRL. -/
def Obligations.DinOnlyMattersToLdzAndWrl : Prop :=
  ∀ (i : Instr) (s : State) (d : Word), (∀ rd, i ≠ .ldz rd) → (∀ rd lane, i ≠ .wrl rd lane) →
    exec i (withDin d s) = onNext (withDin d) (exec i s)

/-- R22, R32, R33: the outcome of a command, FBLK and RDCSR apart, depends only on the command, `DIN`, the bits of its
register operands and the words it pulls: not on other registers or bits, words it does not pull, the Feistel state, the
record, `PULLS` or the responses. -/
def Obligations.ResultsDependOnOperandsAndPulledWords : Prop :=
  ∀ (i : Instr) (s u t : State), (∀ rd n, i ≠ .rdcsr rd n) → (∀ rd, i ≠ .fblk rd) →
    OperandsAgree i s u → u.cmd.din = s.cmd.din →
    upcoming (pullTable i s) u.source = upcoming (pullTable i s) s.source → exec i s = .next t →
    ∃ v, exec i u = .next v ∧ (∀ c d, Responded c d s t → Responded c d u v) ∧
      (t.responses = s.responses → v.responses = u.responses) ∧
      (∀ d, Responded 0 d s t → (∀ rd, destination i = some rd → v.getW rd = t.getW rd) ∧
        (i = .fseed → FeistelKept t v))

/-- R136: a block and the Feistel state after it are a function of the Feistel state alone. -/
def Obligations.BlocksDependOnTheFeistelStateAlone : Prop :=
  ∀ (rd rd' : RegNum) (s u t : State), s.fvalid = true → FeistelKept s u → exec (.fblk rd) s = .next t →
    ∃ v, exec (.fblk rd') u = .next v ∧ FeistelKept t v ∧ v.getW rd' = t.getW rd ∧
      ∀ c d, Responded c d s t → Responded c d u v

/-! ### The invariant -/

/-- R27, R30, R31, R37, R167: reset meets the invariant. -/
def Obligations.ResetMeetsTheInvariant : Prop := State.reset.Inv

/-- R27, R28, R30, R31, R167, R170: every step, whatever the host does, keeps the invariant. -/
def Obligations.StepKeepsTheInvariant : Prop := ∀ s t : State, s.Inv → step s = .next t → t.Inv

/-! ### The BitMath functions -/

/-- R75: population count; the sum over the words counts each bit once. -/
def Obligations.PopulationCountLaw : Prop :=
  (∀ (n : Nat) (v : BitVec n), popcount v = countSet v n ∧ popcount v ≤ n) ∧
  (∀ (k : Nat) (v : BitVec (64 * k)),
    popcount v = ((List.range k).map fun j => popcount (v.extractLsb' (64 * j) 64)).sum) ∧
  (∀ n : Nat, popcount (0 : BitVec n) = 0)

/-- R76, R77: the trailing-zero count of a word, 64 for zero; the chained count is found in the first nonzero word, at
`64j` plus that word's count, and is `N` when every word is zero; it is the index of the lowest set bit. -/
def Obligations.TrailingZerosChainAcrossWords : Prop :=
  (∀ x : Word, (x ≠ 0 → x.getLsbD (tz64 x) = true ∧ ∀ i, i < tz64 x → x.getLsbD i = false) ∧
    (x = 0 → tz64 x = 64)) ∧
  (∀ (k : Nat) (v : BitVec (64 * k)),
    (v = 0 → tz v = 64 * k) ∧
    (v ≠ 0 → v.getLsbD (tz v) = true ∧ ∀ i, i < tz v → v.getLsbD i = false) ∧
    (∀ j, j < k → v.extractLsb' (64 * j) 64 ≠ 0 → (∀ i, i < j → v.extractLsb' (64 * i) 64 = 0) →
      tz v = 64 * j + tz64 (v.extractLsb' (64 * j) 64)))

/-- R78: extract. -/
def Obligations.ExtractGathersUnderTheMask : Prop :=
  ∀ (n : Nat) (v m : BitVec n),
    (∀ i, i < n → m.getLsbD i = true → (pext v m).getLsbD (countSet m i) = v.getLsbD i) ∧
    (∀ j, countSet m n ≤ j → (pext v m).getLsbD j = false) ∧
    (∀ u : BitVec n, u &&& m = v &&& m → pext u m = pext v m) ∧
    pext v 0 = 0

/-- R79: scatter, and that the scanning form of it gives the same result. -/
def Obligations.ScatterEqualsItsScanningForm : Prop :=
  (∀ (n : Nat) (b m : BitVec n),
    (∀ i, i < n → m.getLsbD i = true → (pdep b m).getLsbD i = b.getLsbD (countSet m i)) ∧
    (∀ i, m.getLsbD i = false → (pdep b m).getLsbD i = false) ∧
    (∀ c : BitVec n, (∀ j, j < countSet m n → c.getLsbD j = b.getLsbD j) → pdep c m = pdep b m)) ∧
  (∀ (k : Nat) (b m : BitVec (64 * k)), scanScatter b (64 * k) m 0 0 = pdep b m)

/-- R84: the extract/scatter inverse law, both ways, at every width. -/
def Obligations.ExtractScatterInverseLaw : Prop :=
  ∀ (n : Nat) (v m : BitVec n),
    pdep (pext v m) m = v &&& m ∧
    ∀ j, (pext (pdep v m) m).getLsbD j = (decide (j < countSet m n) && v.getLsbD j)

/-! ### System commands -/

/-- R150. -/
def Obligations.NopChangesNothing : Prop :=
  decode 0 = .ok .nop ∧ ∀ s : State, ∃ t, exec .nop s = .next t ∧ Quiet 0 s t

/-- R151. -/
def Obligations.LdzLoadsDataInZeroExtended : Prop :=
  ∀ (rd : RegNum) (s : State), ∃ t, exec (.ldz rd) s = .next t ∧ Wrote rd 0 s t ∧
    t.getW rd = BitVec.ofNat 512 s.cmd.din.toNat

/-- R152: the one command that keeps part of its destination. -/
def Obligations.WrlWritesOneLaneAndKeepsTheOthers : Prop :=
  ∀ (rd : RegNum) (lane : LaneNum) (s : State), ∃ t, exec (.wrl rd lane) s = .next t ∧
    (t.getW rd).extractLsb' (64 * lane.val) 64 = s.cmd.din ∧
    (∀ j : LaneNum, j ≠ lane →
      (t.getW rd).extractLsb' (64 * j.val) 64 = (s.getW rd).extractLsb' (64 * j.val) 64) ∧
    OthersKept rd s t ∧ Responded 0 0 s t ∧ FeistelKept s t ∧ RecordKept s t ∧ Pulled 0 s t ∧ PortKept s t

/-- R153. -/
def Obligations.RdlReturnsALaneAndChangesNothing : Prop :=
  ∀ (rs1 : RegNum) (lane : LaneNum) (s : State), ∃ t, exec (.rdl rs1 lane) s = .next t ∧
    Quiet (BitVec.ofNat 64 ((s.getW rs1).toNat / 2 ^ (64 * lane.val))) s t

/-- R25, R154: the eight CSRs as the table lays them out; no other number is legal. -/
def Obligations.RdcsrReadsTheRegisterTable : Prop :=
  ∀ (rd : RegNum) (csr : Nat) (s : State),
    (csr ≤ 7 → ∃ t, exec (.rdcsr rd csr) s = .next t ∧ Wrote rd 0 s t ∧
      t.getW rd = BitVec.ofNat 512 (csrTable csr s)) ∧
    (7 < csr → ∃ t, exec (.rdcsr rd csr) s = .next t ∧ Faulted 5 s t)

/-- R155. -/
def Obligations.ClrfClearsTheRecordOnly : Prop :=
  ∀ s : State, ∃ t, exec .clrf s = .next t ∧ t.flt = false ∧ t.cause = 0 ∧ t.ecmd = 0 ∧
    RegistersKept s t ∧ FeistelKept s t ∧ Pulled 0 s t ∧ Responded 0 0 s t ∧ PortKept s t

/-! ### BitMath commands -/

/-- R80: the number of set bits below `N`; never a fault. -/
def Obligations.PopcntCountsTheBitsBelowTheWidth : Prop :=
  ∀ (ws : Width) (rd rs1 : RegNum) (s : State), ∃ t, exec (.popcnt ws rd rs1) s = .next t ∧ Wrote rd 0 s t ∧
    t.getW rd = BitVec.ofNat 512 (countSet (s.getW rs1) (widthOf ws))

/-- R81: the index of the lowest set bit below `N`, or `N`; never a fault. -/
def Obligations.TzcntFindsTheLowestSetBit : Prop :=
  ∀ (ws : Width) (rd rs1 : RegNum) (s : State), ∃ t k, exec (.tzcnt ws rd rs1) s = .next t ∧ Wrote rd 0 s t ∧
    t.getW rd = BitVec.ofNat 512 k ∧ k ≤ widthOf ws ∧ (∀ i, i < k → (s.getW rs1).getLsbD i = false) ∧
    (k < widthOf ws → (s.getW rs1).getLsbD k = true)

/-- R82: extract under a mask of `N` bits, with its two checks. -/
def Obligations.PextGathersOrFaults : Prop :=
  ∀ (ws : Width) (rd rs1 rs2 : RegNum) (b : Nat) (s : State),
    ∃ t, exec (.pext ws rd rs1 rs2 b) s = .next t ∧
      (countSet (s.getW rs2) (widthOf ws) = 0 → Faulted 1 s t) ∧
      (b ≠ 0 → b < countSet (s.getW rs2) (widthOf ws) → Faulted 2 s t) ∧
      (countSet (s.getW rs2) (widthOf ws) ≠ 0 → (b = 0 ∨ countSet (s.getW rs2) (widthOf ws) ≤ b) →
        Wrote rd 0 s t ∧ Gathered (widthOf ws) (s.getW rs1) (s.getW rs2) (t.getW rd))

/-- R83: scatter under a mask of `N` bits, with its two checks. -/
def Obligations.PdepScattersOrFaults : Prop :=
  ∀ (ws : Width) (rd rs1 rs2 : RegNum) (b : Nat) (s : State),
    ∃ t, exec (.pdep ws rd rs1 rs2 b) s = .next t ∧
      (countSet (s.getW rs2) (widthOf ws) = 0 → Faulted 1 s t) ∧
      (b ≠ 0 → b < countSet (s.getW rs2) (widthOf ws) → Faulted 2 s t) ∧
      (countSet (s.getW rs2) (widthOf ws) ≠ 0 → (b = 0 ∨ countSet (s.getW rs2) (widthOf ws) ≤ b) →
        Wrote rd 0 s t ∧ Scattered (widthOf ws) (s.getW rs1) (s.getW rs2) (t.getW rd))

/-! ### Narrower commands -/

/-- R96: the low `n` bits of one pulled word, or InvalidBitCount. -/
def Obligations.TruncTakesTheLowBits : Prop :=
  ∀ (rd : RegNum) (n : Nat) (s : State),
    (1 ≤ n → n ≤ 63 → ∀ x, upcoming 1 s.source = [x] →
      ∃ t, exec (.trunc rd n) s = .next t ∧ Wrote rd 1 s t ∧ t.getW rd = BitVec.ofNat 512 (x.toNat % 2 ^ n)) ∧
    (n < 1 ∨ 63 < n → ∃ t, exec (.trunc rd n) s = .next t ∧ Faulted 3 s t)

/-- R97: the high `n` bits of one pulled word, right-justified, or InvalidBitCount. -/
def Obligations.ShiftTakesTheHighBits : Prop :=
  ∀ (rd : RegNum) (n : Nat) (s : State),
    (1 ≤ n → n ≤ 63 → ∀ x, upcoming 1 s.source = [x] →
      ∃ t, exec (.shift rd n) s = .next t ∧ Wrote rd 1 s t ∧
        t.getW rd = BitVec.ofNat 512 (x.toNat / 2 ^ (64 - n))) ∧
    (n < 1 ∨ 63 < n → ∃ t, exec (.shift rd n) s = .next t ∧ Faulted 3 s t)

/-- R98: MEXT8, MEXT16, MEXT32 and MEXT63: extract from one pulled word under the low 64 bits of the mask register. -/
def Obligations.MextGathersFromAPulledWord : Prop :=
  ∀ (rd rs2 : RegNum) (s : State) (i : Instr) (target : Nat),
    (i, target) ∈ [(Instr.mext8 rd rs2, 8), (Instr.mext16 rd rs2, 16), (Instr.mext32 rd rs2, 32),
      (Instr.mext63 rd rs2, 63)] →
    (countSet (s.getW rs2) 64 = 0 → ∃ t, exec i s = .next t ∧ Faulted 1 s t) ∧
    (target < countSet (s.getW rs2) 64 → ∃ t, exec i s = .next t ∧ Faulted 2 s t) ∧
    (countSet (s.getW rs2) 64 ≠ 0 → countSet (s.getW rs2) 64 ≤ target → ∀ x, upcoming 1 s.source = [x] →
      ∃ t, exec i s = .next t ∧ Wrote rd 1 s t ∧
        Gathered 64 (BitVec.ofNat 512 x.toNat) (s.getW rs2) (t.getW rd))

/-- R99: one fold is the exclusive or of the two halves, a value of `w` bits, whichever half is called first. -/
def Obligations.FoldXorsTheHalves : Prop :=
  ∀ (x : Word) (w : Nat), w ≤ 32 →
    (fold x w).toNat = (x.toNat / 2 ^ w % 2 ^ w) ^^^ (x.toNat % 2 ^ w) ∧
    (fold x w).toNat < 2 ^ w ∧
    fold ((x.extractLsb' 0 w).setWidth 64 <<< w ||| (x.extractLsb' w w).setWidth 64) w = fold x w

/-- R100: bit `i` of SPONGE's result is the exclusive or of the source bits at positions congruent to `i`; widths
other than the six fault. -/
def Obligations.SpongeFoldsEveryBitIn : Prop :=
  ∀ (rd : RegNum) (w : Nat) (s : State),
    (w ∈ [1, 2, 4, 8, 16, 32] → ∀ x, upcoming 1 s.source = [x] →
      ∃ t, exec (.sponge rd w) s = .next t ∧ Wrote rd 1 s t ∧
        ∀ i, (t.getW rd).getLsbD i =
          (decide (i < w) && (List.range (64 / w)).foldl (fun a j => a ^^ x.getLsbD (i + w * j)) false)) ∧
    (w ∉ [1, 2, 4, 8, 16, 32] → ∃ t, exec (.sponge rd w) s = .next t ∧ Faulted 3 s t)

/-- R103: CONSTRUCT that passes its checks: `t / p` fresh words, the first round's bits most significant, zeros above
bit `t−1`. -/
def Obligations.ConstructAccumulatesItsRounds : Prop :=
  ∀ (rd rs2 : RegNum) (t : Nat) (s : State) (p k : Nat) (xs : List Word), p = countSet (s.getW rs2) 64 →
    constructTable t (s.getW rs2) = 0 → k = t / p → upcoming k s.source = xs → xs.length = k →
    ∃ u, exec (.construct rd rs2 t) s = .next u ∧ Wrote rd k s u ∧
      (∀ i x, xs[i]? = some x →
        Gathered 64 (BitVec.ofNat 512 x.toNat) (s.getW rs2)
          (((u.getW rd).extractLsb' ((k - 1 - i) * p) p).setWidth 512)) ∧
      (∀ j, t ≤ j → (u.getW rd).getLsbD j = false)

/-- R105: the construct round-trip law, with `p` the population count of the mask and `k` rounds. -/
def Obligations.ConstructRoundTrip : Prop :=
  ∀ (m : Word) (xs : List Word) (p : Nat), p = countSet m 64 → p ≠ 0 → xs.length * p ≤ 64 →
    ∀ i x, xs[i]? = some x →
      ((accumulate m p xs).extractLsb' ((xs.length - 1 - i) * p) p).setWidth 64 = pext x m ∧
      pdep (((accumulate m p xs).extractLsb' ((xs.length - 1 - i) * p) p).setWidth 64) m = x &&& m

/-- R106: SLICE2, SLICE4 and SLICE8: part `j` of the low 64 bits in lane `j`, the other lanes zero. -/
def Obligations.SliceCutsLowWordFirst : Prop :=
  ∀ (rd rs1 : RegNum) (s : State) (i : Instr) (k : Nat),
    (i, k) ∈ [(Instr.slice2 rd rs1, 2), (Instr.slice4 rd rs1, 4), (Instr.slice8 rd rs1, 8)] →
    ∃ t, exec i s = .next t ∧ Wrote rd 0 s t ∧
      ∀ j, j < 8 → ((t.getW rd).extractLsb' (64 * j) 64).toNat =
        if j < k then (s.getW rs1).toNat / 2 ^ (64 / k * j) % 2 ^ (64 / k) else 0

/-! ### Widener commands -/

/-- R116: `N/64` words, the first pulled in lane 0, zeros above. -/
def Obligations.ConcatPutsTheFirstWordLowest : Prop :=
  ∀ (ws : Width) (rd : RegNum) (s : State) (xs : List Word),
    upcoming (widthOf ws / 64) s.source = xs → xs.length = widthOf ws / 64 →
    ∃ t, exec (.concat ws rd) s = .next t ∧ Wrote rd (widthOf ws / 64) s t ∧
      ∀ j, j < 8 → (t.getW rd).extractLsb' (64 * j) 64 = xs.getD j 0

/-- R118: one pull; lane `j` is `MIX` applied `j` times to the word, zeros above (for the open `MIX`, log 7). -/
def Obligations.MixexpChainsTheMixingFunction : Prop :=
  ∀ (ws : Width) (rd : RegNum) (s : State) (x : Word), upcoming 1 s.source = [x] →
    ∃ t, exec (.mixexp ws rd) s = .next t ∧ Wrote rd 1 s t ∧
      ∀ j, j < 8 → (t.getW rd).extractLsb' (64 * j) 64 =
        if j < widthOf ws / 64 then Config.mixOpen^[j] x else 0

/-- R120: one word's bits under a wide mask of at most 64 set bits, with the two checks. -/
def Obligations.SpreadScattersAPulledWord : Prop :=
  ∀ (ws : Width) (rd rs2 : RegNum) (s : State),
    (countSet (s.getW rs2) (widthOf ws) = 0 → ∃ t, exec (.spread ws rd rs2) s = .next t ∧ Faulted 1 s t) ∧
    (64 < countSet (s.getW rs2) (widthOf ws) → ∃ t, exec (.spread ws rd rs2) s = .next t ∧ Faulted 2 s t) ∧
    (countSet (s.getW rs2) (widthOf ws) ≠ 0 → countSet (s.getW rs2) (widthOf ws) ≤ 64 →
      ∀ x, upcoming 1 s.source = [x] → ∃ t, exec (.spread ws rd rs2) s = .next t ∧ Wrote rd 1 s t ∧
        Scattered (widthOf ws) (BitVec.ofNat 512 x.toNat) (s.getW rs2) (t.getW rd))

/-! ### The Feistel stream -/

/-- R131: three words in order, the cursor at the lowest slice, `fvalid` set; whatever the state before. -/
def Obligations.FseedTakesThreeWordsInOrder : Prop :=
  ∀ (s : State) (a b c : Word), upcoming 3 s.source = [a, b, c] →
    ∃ t, exec .fseed s = .next t ∧ t.fstate = a ∧ t.fkey = b ∧ t.fctr = c ∧ t.fidx = 0 ∧ t.fvalid = true ∧
      RegistersKept s t ∧ RecordKept s t ∧ Pulled 3 s t ∧ Responded 0 0 s t ∧ PortKept s t

/-- R132, R133, R134: the next block under the spec's default round function (a parameter: log 8), or NotSeeded. -/
def Obligations.FblkEmitsTheNextBlock : Prop :=
  ∀ (rd : RegNum) (s : State),
    (s.fvalid = true → ∃ t, exec (.fblk rd) s = .next t ∧ Blocked referenceF rd s t) ∧
    (s.fvalid = false → ∃ t, exec (.fblk rd) s = .next t ∧ Faulted 6 s t)

/-- R133, R134: the block has the same structure for every round function. -/
def Obligations.BlockStructureHoldsForEveryRoundFunction : Prop :=
  ∀ (F : Half → Half → Half) (rd : RegNum) (s : State), s.fvalid = true →
    ∃ t, nextBlock F rd s = .next t ∧ Blocked F rd s t

/-- R132: the two Feistel rounds of an iteration are a bijection of the state, for every round function and key. -/
def Obligations.FeistelRoundsAreABijection : Prop :=
  ∀ (F : Half → Half → Half) (key : Word), Function.Bijective fun state => mixed F state key

/-- R138: a zero state under a zero key emits a zero block and stays zero, the counter coming in only at the
swap (under the default round function, log 8). -/
def Obligations.ZeroStateEmitsZeroBlocks : Prop :=
  ∀ (rd : RegNum) (s : State), s.fvalid = true → s.fstate = 0 → s.fkey = 0 →
    ∃ t, exec (.fblk rd) s = .next t ∧ t.getW rd = 0 ∧ Responded 0 0 s t ∧ t.fkey = 0 ∧
      (s.fidx ≠ 60 → t.fstate = 0 ∧ t.fctr = s.fctr) ∧ (s.fidx = 60 → t.fstate = s.fctr ∧ t.fctr = 0)

/-- R135: byte `8i + k` of the stream is bits `8k+7 : 8k` of block `i`. -/
def Obligations.StreamBytesAreLeastSignificantFirst : Prop :=
  ∀ (blocks : List Word) (i k : Nat) (out : Word), blocks[i]? = some out → k < 8 →
    (blocks.flatMap blockBytes)[8 * i + k]? = some (out.extractLsb' (8 * k) 8)

/-! ### Pseudo-instructions -/

/-- R68, R195: the commands of `ldw wd, v` leave `v` in the register, from every state, and touch no other register. -/
def Obligations.LdwLoadsAWideValue : Prop :=
  ∀ (rd : RegNum) (v : Wide) (s : State),
    ∃ t, runAll (ldwCommands rd v) s = some t ∧ t.getW rd = v ∧ OthersKept rd s t
end

