-- ==== Sys2Proof/Laws/Encode.lean ====
section
/-!
SUPPORT. The fields of the pieces a command word is put together from (R57): each piece read back in its own field
and zero in every other, and the masks of the rows on the pieces.
-/

namespace Sys2Proof

@[simp] theorem putRd_fieldWs (r : RegNum) : (putRd r).extractLsb' 8 2 = 0 := by revert r; decide
@[simp] theorem putRd_fieldRd (r : RegNum) : (putRd r).extractLsb' 10 3 = BitVec.ofNat 3 r.val := by revert r; decide
@[simp] theorem putRd_fieldRs1 (r : RegNum) : (putRd r).extractLsb' 13 3 = 0 := by revert r; decide
@[simp] theorem putRd_fieldRs2 (r : RegNum) : (putRd r).extractLsb' 16 3 = 0 := by revert r; decide
@[simp] theorem putRd_fieldImm (r : RegNum) : (putRd r).extractLsb' 19 10 = 0 := by revert r; decide
@[simp] theorem putRd_fieldLane (r : RegNum) : (putRd r).extractLsb' 19 3 = 0 := by revert r; decide

@[simp] theorem putRs1_fieldWs (r : RegNum) : (putRs1 r).extractLsb' 8 2 = 0 := by revert r; decide
@[simp] theorem putRs1_fieldRd (r : RegNum) : (putRs1 r).extractLsb' 10 3 = 0 := by revert r; decide
@[simp] theorem putRs1_fieldRs1 (r : RegNum) : (putRs1 r).extractLsb' 13 3 = BitVec.ofNat 3 r.val := by revert r; decide
@[simp] theorem putRs1_fieldRs2 (r : RegNum) : (putRs1 r).extractLsb' 16 3 = 0 := by revert r; decide
@[simp] theorem putRs1_fieldImm (r : RegNum) : (putRs1 r).extractLsb' 19 10 = 0 := by revert r; decide
@[simp] theorem putRs1_fieldLane (r : RegNum) : (putRs1 r).extractLsb' 19 3 = 0 := by revert r; decide

@[simp] theorem putRs2_fieldWs (r : RegNum) : (putRs2 r).extractLsb' 8 2 = 0 := by revert r; decide
@[simp] theorem putRs2_fieldRd (r : RegNum) : (putRs2 r).extractLsb' 10 3 = 0 := by revert r; decide
@[simp] theorem putRs2_fieldRs1 (r : RegNum) : (putRs2 r).extractLsb' 13 3 = 0 := by revert r; decide
@[simp] theorem putRs2_fieldRs2 (r : RegNum) : (putRs2 r).extractLsb' 16 3 = BitVec.ofNat 3 r.val := by revert r; decide
@[simp] theorem putRs2_fieldImm (r : RegNum) : (putRs2 r).extractLsb' 19 10 = 0 := by revert r; decide
@[simp] theorem putRs2_fieldLane (r : RegNum) : (putRs2 r).extractLsb' 19 3 = 0 := by revert r; decide

@[simp] theorem putWs_fieldWs (r : Width) : (putWs r).extractLsb' 8 2 = BitVec.ofNat 2 (wsCode r) := by cases r <;> decide
@[simp] theorem putWs_fieldRd (r : Width) : (putWs r).extractLsb' 10 3 = 0 := by cases r <;> decide
@[simp] theorem putWs_fieldRs1 (r : Width) : (putWs r).extractLsb' 13 3 = 0 := by cases r <;> decide
@[simp] theorem putWs_fieldRs2 (r : Width) : (putWs r).extractLsb' 16 3 = 0 := by cases r <;> decide
@[simp] theorem putWs_fieldImm (r : Width) : (putWs r).extractLsb' 19 10 = 0 := by cases r <;> decide
@[simp] theorem putWs_fieldLane (r : Width) : (putWs r).extractLsb' 19 3 = 0 := by cases r <;> decide

/-- The bits of `imm` in its place. -/
theorem putImm_getLsbD (n : Nat) (j : Nat) :
    (putImm n).getLsbD j = (decide (j < 32) && decide (19 ≤ j) && n.testBit (j - 19)) := by
  simp only [putImm, BitVec.getLsbD_shiftLeft, BitVec.getLsbD_ofNat]
  by_cases h1 : j < 32
  · by_cases h2 : j < 19
    · simp [h1, h2, Nat.not_le.2 h2]
    · simp [h1, h2, Nat.not_lt.1 h2, show j - 19 < 32 by omega]
  · simp [h1]

@[simp] theorem putImm_fieldWs (n : Nat) : (putImm n).extractLsb' 8 2 = 0 := by
  apply BitVec.eq_of_getLsbD_eq
  intro i hi
  simp [BitVec.getLsbD_extractLsb', putImm_getLsbD]; omega
@[simp] theorem putImm_fieldRd (n : Nat) : (putImm n).extractLsb' 10 3 = 0 := by
  apply BitVec.eq_of_getLsbD_eq
  intro i hi
  simp [BitVec.getLsbD_extractLsb', putImm_getLsbD]; omega
@[simp] theorem putImm_fieldRs1 (n : Nat) : (putImm n).extractLsb' 13 3 = 0 := by
  apply BitVec.eq_of_getLsbD_eq
  intro i hi
  simp [BitVec.getLsbD_extractLsb', putImm_getLsbD]; omega
@[simp] theorem putImm_fieldRs2 (n : Nat) : (putImm n).extractLsb' 16 3 = 0 := by
  apply BitVec.eq_of_getLsbD_eq
  intro i hi
  simp [BitVec.getLsbD_extractLsb', putImm_getLsbD]; omega

@[simp] theorem putImm_fieldImm (n : Nat) : (putImm n).extractLsb' 19 10 = BitVec.ofNat 10 n := by
  apply BitVec.eq_of_getLsbD_eq
  intro i hi
  simp only [BitVec.getLsbD_extractLsb', putImm_getLsbD, BitVec.getLsbD_ofNat]
  simp [show 19 + i < 32 by omega]

@[simp] theorem putImm_fieldLane (n : LaneNum) : (putImm n.val).extractLsb' 19 3 = BitVec.ofNat 3 n.val := by
  revert n; decide

/-- A mask with zeros in the field `imm` takes `imm` away. -/
theorem putImm_and {m : CmdWord} (hm : m &&& 0x1FF80000#32 = 0#32) {n : Nat} (hn : n < immLimit) : putImm n &&& m = 0#32 := by
  apply BitVec.eq_of_getLsbD_eq
  intro i hi
  have h := congrArg (fun v => v.getLsbD i) hm
  simp only [BitVec.getLsbD_and, BitVec.getLsbD_zero] at h ⊢
  rw [putImm_getLsbD]
  by_cases h1 : 19 ≤ i
  · by_cases h2 : i < 29
    · have : (0x1FF80000#32).getLsbD i = true := by
        have : ∀ i : Fin 32, 19 ≤ i.val → i.val < 29 → (0x1FF80000#32).getLsbD i.val = true := by decide
        exact this ⟨i, hi⟩ h1 h2
      rw [this, Bool.and_true] at h
      simp [h]
    · have : n.testBit (i - 19) = false :=
        Nat.testBit_lt_two_pow (Nat.lt_of_lt_of_le hn (by
          rw [immLimit, show 1024 = 2 ^ 10 from rfl]; exact Nat.pow_le_pow_right (by omega) (by omega)))
      simp [this]
  · simp [h1]

theorem putRd_and {m : CmdWord} (hm : m &&& 0x1C00#32 = 0#32) (r : RegNum) : putRd r &&& m = 0#32 := by
  have h : putRd r = putRd r &&& 0x1C00#32 := by revert r; decide
  rw [h, BitVec.and_assoc, BitVec.and_comm _ m, hm, BitVec.and_zero]

theorem putRs1_and {m : CmdWord} (hm : m &&& 0xE000#32 = 0#32) (r : RegNum) : putRs1 r &&& m = 0#32 := by
  have h : putRs1 r = putRs1 r &&& 0xE000#32 := by revert r; decide
  rw [h, BitVec.and_assoc, BitVec.and_comm _ m, hm, BitVec.and_zero]

theorem putRs2_and {m : CmdWord} (hm : m &&& 0x70000#32 = 0#32) (r : RegNum) : putRs2 r &&& m = 0#32 := by
  have h : putRs2 r = putRs2 r &&& 0x70000#32 := by revert r; decide
  rw [h, BitVec.and_assoc, BitVec.and_comm _ m, hm, BitVec.and_zero]

theorem putWs_and {m : CmdWord} (hm : m &&& 0x300#32 = 0#32) (r : Width) : putWs r &&& m = 0#32 := by
  have h : putWs r = putWs r &&& 0x300#32 := by cases r <;> decide
  rw [h, BitVec.and_assoc, BitVec.and_comm _ m, hm, BitVec.and_zero]

/-- The mask of WRL and RDL on a lane number. -/
theorem putImm_lane_and {m : CmdWord} (hm : m &&& 0x380000#32 = 0#32) (n : LaneNum) : putImm n.val &&& m = 0#32 := by
  have h : putImm n.val = putImm n.val &&& 0x380000#32 := by revert n; decide
  rw [h, BitVec.and_assoc, BitVec.and_comm _ m, hm, BitVec.and_zero]

theorem extractLsb'_or {n : Nat} (a b : BitVec n) (lo w : Nat) :
    (a ||| b).extractLsb' lo w = a.extractLsb' lo w ||| b.extractLsb' lo w := by
  apply BitVec.eq_of_getLsbD_eq
  intro i hi
  simp [hi]

theorem regNum_of_bits (r : RegNum) : (BitVec.ofNat 3 r.val).toFin = r := by revert r; decide

theorem width_of_bits (ws : Width) : wsOfCode (BitVec.ofNat 2 (wsCode ws)).toNat = ws := by cases ws <;> decide

theorem imm_of_bits {n : Nat} (hn : n < immLimit) : (BitVec.ofNat 10 n).toNat = n := by
  simp only [BitVec.toNat_ofNat]
  exact Nat.mod_eq_of_lt hn

/-! Each field read from a word whose bits are known. -/

theorem fieldRd_eq {w : CmdWord} {r : RegNum} (h : w.extractLsb' 10 3 = BitVec.ofNat 3 r.val) : fieldRd w = r := by
  simp only [fieldRd, h]; exact regNum_of_bits r

theorem fieldRs1_eq {w : CmdWord} {r : RegNum} (h : w.extractLsb' 13 3 = BitVec.ofNat 3 r.val) : fieldRs1 w = r := by
  simp only [fieldRs1, h]; exact regNum_of_bits r

theorem fieldRs2_eq {w : CmdWord} {r : RegNum} (h : w.extractLsb' 16 3 = BitVec.ofNat 3 r.val) : fieldRs2 w = r := by
  simp only [fieldRs2, h]; exact regNum_of_bits r

theorem fieldLane_eq {w : CmdWord} {r : LaneNum} (h : w.extractLsb' 19 3 = BitVec.ofNat 3 r.val) :
    fieldLane w = r := by
  simp only [fieldLane, h]; exact regNum_of_bits r

theorem fieldWs_eq {w : CmdWord} {ws : Width} (h : w.extractLsb' 8 2 = BitVec.ofNat 2 (wsCode ws)) :
    fieldWs w = ws := by
  simp only [fieldWs, h]; exact width_of_bits ws

theorem fieldImm_eq {w : CmdWord} {n : Nat} (hn : n < immLimit) (h : w.extractLsb' 19 10 = BitVec.ofNat 10 n) :
    fieldImm w = n := by
  simp only [fieldImm, h]; exact imm_of_bits hn

/-- A mask taken over the pieces of a word. -/
theorem or_and {n : Nat} (a b m : BitVec n) : (a ||| b) &&& m = (a &&& m) ||| (b &&& m) := by
  apply BitVec.eq_of_getLsbD_eq
  intro i hi
  simp [Bool.and_or_distrib_right]

end Sys2Proof
end

