-- ==== Sys2Proof/Laws/State.lean ====
section
/-!
SUPPORT. One lemma per field per update of the state, true by `rfl`, and the two laws of reading a register after
a write, so that no later proof unfolds a record update.
-/

namespace Sys2Proof.Machine

/-! `State.setW` -/

@[simp] theorem State.setW_w (s : State) (r : RegNum) (v : Wide) : (s.setW r v).w = s.w.set r v := rfl
@[simp] theorem State.setW_fstate (s : State) (r : RegNum) (v : Wide) : (s.setW r v).fstate = s.fstate := rfl
@[simp] theorem State.setW_fkey (s : State) (r : RegNum) (v : Wide) : (s.setW r v).fkey = s.fkey := rfl
@[simp] theorem State.setW_fctr (s : State) (r : RegNum) (v : Wide) : (s.setW r v).fctr = s.fctr := rfl
@[simp] theorem State.setW_fidx (s : State) (r : RegNum) (v : Wide) : (s.setW r v).fidx = s.fidx := rfl
@[simp] theorem State.setW_fvalid (s : State) (r : RegNum) (v : Wide) : (s.setW r v).fvalid = s.fvalid := rfl
@[simp] theorem State.setW_flt (s : State) (r : RegNum) (v : Wide) : (s.setW r v).flt = s.flt := rfl
@[simp] theorem State.setW_cause (s : State) (r : RegNum) (v : Wide) : (s.setW r v).cause = s.cause := rfl
@[simp] theorem State.setW_ecmd (s : State) (r : RegNum) (v : Wide) : (s.setW r v).ecmd = s.ecmd := rfl
@[simp] theorem State.setW_pulls (s : State) (r : RegNum) (v : Wide) : (s.setW r v).pulls = s.pulls := rfl
@[simp] theorem State.setW_cmd (s : State) (r : RegNum) (v : Wide) : (s.setW r v).cmd = s.cmd := rfl
@[simp] theorem State.setW_outstanding (s : State) (r : RegNum) (v : Wide) : (s.setW r v).outstanding = s.outstanding := rfl
@[simp] theorem State.setW_responses (s : State) (r : RegNum) (v : Wide) : (s.setW r v).responses = s.responses := rfl
@[simp] theorem State.setW_host (s : State) (r : RegNum) (v : Wide) : (s.setW r v).host = s.host := rfl
@[simp] theorem State.setW_source (s : State) (r : RegNum) (v : Wide) : (s.setW r v).source = s.source := rfl

/-! `State.respond` -/

@[simp] theorem State.respond_w (s : State) (c : BitVec 4) (d : Word) : (s.respond c d).w = s.w := rfl
@[simp] theorem State.respond_fstate (s : State) (c : BitVec 4) (d : Word) : (s.respond c d).fstate = s.fstate := rfl
@[simp] theorem State.respond_fkey (s : State) (c : BitVec 4) (d : Word) : (s.respond c d).fkey = s.fkey := rfl
@[simp] theorem State.respond_fctr (s : State) (c : BitVec 4) (d : Word) : (s.respond c d).fctr = s.fctr := rfl
@[simp] theorem State.respond_fidx (s : State) (c : BitVec 4) (d : Word) : (s.respond c d).fidx = s.fidx := rfl
@[simp] theorem State.respond_fvalid (s : State) (c : BitVec 4) (d : Word) : (s.respond c d).fvalid = s.fvalid := rfl
@[simp] theorem State.respond_flt (s : State) (c : BitVec 4) (d : Word) : (s.respond c d).flt = s.flt := rfl
@[simp] theorem State.respond_cause (s : State) (c : BitVec 4) (d : Word) : (s.respond c d).cause = s.cause := rfl
@[simp] theorem State.respond_ecmd (s : State) (c : BitVec 4) (d : Word) : (s.respond c d).ecmd = s.ecmd := rfl
@[simp] theorem State.respond_pulls (s : State) (c : BitVec 4) (d : Word) : (s.respond c d).pulls = s.pulls := rfl
@[simp] theorem State.respond_cmd (s : State) (c : BitVec 4) (d : Word) : (s.respond c d).cmd = s.cmd := rfl
@[simp] theorem State.respond_outstanding (s : State) (c : BitVec 4) (d : Word) : (s.respond c d).outstanding = s.outstanding := rfl
@[simp] theorem State.respond_responses (s : State) (c : BitVec 4) (d : Word) : (s.respond c d).responses = s.responses ++ [{ status := c, dout := d }] := rfl
@[simp] theorem State.respond_host (s : State) (c : BitVec 4) (d : Word) : (s.respond c d).host = s.host := rfl
@[simp] theorem State.respond_source (s : State) (c : BitVec 4) (d : Word) : (s.respond c d).source = s.source := rfl
@[simp] theorem State.respond_getW (s : State) (c : BitVec 4) (d : Word) (q : RegNum) : (s.respond c d).getW q = s.getW q := rfl

/-! `State.setRecord` -/

@[simp] theorem State.setRecord_w (s : State) (f : Bool) (c : BitVec 4) (e : CmdWord) : (s.setRecord f c e).w = s.w := rfl
@[simp] theorem State.setRecord_fstate (s : State) (f : Bool) (c : BitVec 4) (e : CmdWord) : (s.setRecord f c e).fstate = s.fstate := rfl
@[simp] theorem State.setRecord_fkey (s : State) (f : Bool) (c : BitVec 4) (e : CmdWord) : (s.setRecord f c e).fkey = s.fkey := rfl
@[simp] theorem State.setRecord_fctr (s : State) (f : Bool) (c : BitVec 4) (e : CmdWord) : (s.setRecord f c e).fctr = s.fctr := rfl
@[simp] theorem State.setRecord_fidx (s : State) (f : Bool) (c : BitVec 4) (e : CmdWord) : (s.setRecord f c e).fidx = s.fidx := rfl
@[simp] theorem State.setRecord_fvalid (s : State) (f : Bool) (c : BitVec 4) (e : CmdWord) : (s.setRecord f c e).fvalid = s.fvalid := rfl
@[simp] theorem State.setRecord_flt (s : State) (f : Bool) (c : BitVec 4) (e : CmdWord) : (s.setRecord f c e).flt = f := rfl
@[simp] theorem State.setRecord_cause (s : State) (f : Bool) (c : BitVec 4) (e : CmdWord) : (s.setRecord f c e).cause = c := rfl
@[simp] theorem State.setRecord_ecmd (s : State) (f : Bool) (c : BitVec 4) (e : CmdWord) : (s.setRecord f c e).ecmd = e := rfl
@[simp] theorem State.setRecord_pulls (s : State) (f : Bool) (c : BitVec 4) (e : CmdWord) : (s.setRecord f c e).pulls = s.pulls := rfl
@[simp] theorem State.setRecord_cmd (s : State) (f : Bool) (c : BitVec 4) (e : CmdWord) : (s.setRecord f c e).cmd = s.cmd := rfl
@[simp] theorem State.setRecord_outstanding (s : State) (f : Bool) (c : BitVec 4) (e : CmdWord) : (s.setRecord f c e).outstanding = s.outstanding := rfl
@[simp] theorem State.setRecord_responses (s : State) (f : Bool) (c : BitVec 4) (e : CmdWord) : (s.setRecord f c e).responses = s.responses := rfl
@[simp] theorem State.setRecord_host (s : State) (f : Bool) (c : BitVec 4) (e : CmdWord) : (s.setRecord f c e).host = s.host := rfl
@[simp] theorem State.setRecord_source (s : State) (f : Bool) (c : BitVec 4) (e : CmdWord) : (s.setRecord f c e).source = s.source := rfl
@[simp] theorem State.setRecord_getW (s : State) (f : Bool) (c : BitVec 4) (e : CmdWord) (q : RegNum) : (s.setRecord f c e).getW q = s.getW q := rfl

/-! `State.setSource` -/

@[simp] theorem State.setSource_w (s : State) (src : Source) (p : Word) : (s.setSource src p).w = s.w := rfl
@[simp] theorem State.setSource_fstate (s : State) (src : Source) (p : Word) : (s.setSource src p).fstate = s.fstate := rfl
@[simp] theorem State.setSource_fkey (s : State) (src : Source) (p : Word) : (s.setSource src p).fkey = s.fkey := rfl
@[simp] theorem State.setSource_fctr (s : State) (src : Source) (p : Word) : (s.setSource src p).fctr = s.fctr := rfl
@[simp] theorem State.setSource_fidx (s : State) (src : Source) (p : Word) : (s.setSource src p).fidx = s.fidx := rfl
@[simp] theorem State.setSource_fvalid (s : State) (src : Source) (p : Word) : (s.setSource src p).fvalid = s.fvalid := rfl
@[simp] theorem State.setSource_flt (s : State) (src : Source) (p : Word) : (s.setSource src p).flt = s.flt := rfl
@[simp] theorem State.setSource_cause (s : State) (src : Source) (p : Word) : (s.setSource src p).cause = s.cause := rfl
@[simp] theorem State.setSource_ecmd (s : State) (src : Source) (p : Word) : (s.setSource src p).ecmd = s.ecmd := rfl
@[simp] theorem State.setSource_pulls (s : State) (src : Source) (p : Word) : (s.setSource src p).pulls = p := rfl
@[simp] theorem State.setSource_cmd (s : State) (src : Source) (p : Word) : (s.setSource src p).cmd = s.cmd := rfl
@[simp] theorem State.setSource_outstanding (s : State) (src : Source) (p : Word) : (s.setSource src p).outstanding = s.outstanding := rfl
@[simp] theorem State.setSource_responses (s : State) (src : Source) (p : Word) : (s.setSource src p).responses = s.responses := rfl
@[simp] theorem State.setSource_host (s : State) (src : Source) (p : Word) : (s.setSource src p).host = s.host := rfl
@[simp] theorem State.setSource_source (s : State) (src : Source) (p : Word) : (s.setSource src p).source = src := rfl
@[simp] theorem State.setSource_getW (s : State) (src : Source) (p : Word) (q : RegNum) : (s.setSource src p).getW q = s.getW q := rfl

/-! `State.setFeistel` -/

@[simp] theorem State.setFeistel_w (s : State) (a b c : Word) (d : BitVec 6) : (s.setFeistel a b c d).w = s.w := rfl
@[simp] theorem State.setFeistel_fstate (s : State) (a b c : Word) (d : BitVec 6) : (s.setFeistel a b c d).fstate = a := rfl
@[simp] theorem State.setFeistel_fkey (s : State) (a b c : Word) (d : BitVec 6) : (s.setFeistel a b c d).fkey = b := rfl
@[simp] theorem State.setFeistel_fctr (s : State) (a b c : Word) (d : BitVec 6) : (s.setFeistel a b c d).fctr = c := rfl
@[simp] theorem State.setFeistel_fidx (s : State) (a b c : Word) (d : BitVec 6) : (s.setFeistel a b c d).fidx = d := rfl
@[simp] theorem State.setFeistel_fvalid (s : State) (a b c : Word) (d : BitVec 6) : (s.setFeistel a b c d).fvalid = s.fvalid := rfl
@[simp] theorem State.setFeistel_flt (s : State) (a b c : Word) (d : BitVec 6) : (s.setFeistel a b c d).flt = s.flt := rfl
@[simp] theorem State.setFeistel_cause (s : State) (a b c : Word) (d : BitVec 6) : (s.setFeistel a b c d).cause = s.cause := rfl
@[simp] theorem State.setFeistel_ecmd (s : State) (a b c : Word) (d : BitVec 6) : (s.setFeistel a b c d).ecmd = s.ecmd := rfl
@[simp] theorem State.setFeistel_pulls (s : State) (a b c : Word) (d : BitVec 6) : (s.setFeistel a b c d).pulls = s.pulls := rfl
@[simp] theorem State.setFeistel_cmd (s : State) (a b c : Word) (d : BitVec 6) : (s.setFeistel a b c d).cmd = s.cmd := rfl
@[simp] theorem State.setFeistel_outstanding (s : State) (a b c : Word) (d : BitVec 6) : (s.setFeistel a b c d).outstanding = s.outstanding := rfl
@[simp] theorem State.setFeistel_responses (s : State) (a b c : Word) (d : BitVec 6) : (s.setFeistel a b c d).responses = s.responses := rfl
@[simp] theorem State.setFeistel_host (s : State) (a b c : Word) (d : BitVec 6) : (s.setFeistel a b c d).host = s.host := rfl
@[simp] theorem State.setFeistel_source (s : State) (a b c : Word) (d : BitVec 6) : (s.setFeistel a b c d).source = s.source := rfl
@[simp] theorem State.setFeistel_getW (s : State) (a b c : Word) (d : BitVec 6) (q : RegNum) : (s.setFeistel a b c d).getW q = s.getW q := rfl

/-! `State.setFvalid` -/

@[simp] theorem State.setFvalid_w (s : State) (v : Bool) : (s.setFvalid v).w = s.w := rfl
@[simp] theorem State.setFvalid_fstate (s : State) (v : Bool) : (s.setFvalid v).fstate = s.fstate := rfl
@[simp] theorem State.setFvalid_fkey (s : State) (v : Bool) : (s.setFvalid v).fkey = s.fkey := rfl
@[simp] theorem State.setFvalid_fctr (s : State) (v : Bool) : (s.setFvalid v).fctr = s.fctr := rfl
@[simp] theorem State.setFvalid_fidx (s : State) (v : Bool) : (s.setFvalid v).fidx = s.fidx := rfl
@[simp] theorem State.setFvalid_fvalid (s : State) (v : Bool) : (s.setFvalid v).fvalid = v := rfl
@[simp] theorem State.setFvalid_flt (s : State) (v : Bool) : (s.setFvalid v).flt = s.flt := rfl
@[simp] theorem State.setFvalid_cause (s : State) (v : Bool) : (s.setFvalid v).cause = s.cause := rfl
@[simp] theorem State.setFvalid_ecmd (s : State) (v : Bool) : (s.setFvalid v).ecmd = s.ecmd := rfl
@[simp] theorem State.setFvalid_pulls (s : State) (v : Bool) : (s.setFvalid v).pulls = s.pulls := rfl
@[simp] theorem State.setFvalid_cmd (s : State) (v : Bool) : (s.setFvalid v).cmd = s.cmd := rfl
@[simp] theorem State.setFvalid_outstanding (s : State) (v : Bool) : (s.setFvalid v).outstanding = s.outstanding := rfl
@[simp] theorem State.setFvalid_responses (s : State) (v : Bool) : (s.setFvalid v).responses = s.responses := rfl
@[simp] theorem State.setFvalid_host (s : State) (v : Bool) : (s.setFvalid v).host = s.host := rfl
@[simp] theorem State.setFvalid_source (s : State) (v : Bool) : (s.setFvalid v).source = s.source := rfl
@[simp] theorem State.setFvalid_getW (s : State) (v : Bool) (q : RegNum) : (s.setFvalid v).getW q = s.getW q := rfl

/-! `State.present` -/

@[simp] theorem State.present_w (s : State) (c : Command) : (s.present c).w = s.w := rfl
@[simp] theorem State.present_fstate (s : State) (c : Command) : (s.present c).fstate = s.fstate := rfl
@[simp] theorem State.present_fkey (s : State) (c : Command) : (s.present c).fkey = s.fkey := rfl
@[simp] theorem State.present_fctr (s : State) (c : Command) : (s.present c).fctr = s.fctr := rfl
@[simp] theorem State.present_fidx (s : State) (c : Command) : (s.present c).fidx = s.fidx := rfl
@[simp] theorem State.present_fvalid (s : State) (c : Command) : (s.present c).fvalid = s.fvalid := rfl
@[simp] theorem State.present_flt (s : State) (c : Command) : (s.present c).flt = s.flt := rfl
@[simp] theorem State.present_cause (s : State) (c : Command) : (s.present c).cause = s.cause := rfl
@[simp] theorem State.present_ecmd (s : State) (c : Command) : (s.present c).ecmd = s.ecmd := rfl
@[simp] theorem State.present_pulls (s : State) (c : Command) : (s.present c).pulls = s.pulls := rfl
@[simp] theorem State.present_cmd (s : State) (c : Command) : (s.present c).cmd = c := rfl
@[simp] theorem State.present_outstanding (s : State) (c : Command) : (s.present c).outstanding = s.outstanding := rfl
@[simp] theorem State.present_responses (s : State) (c : Command) : (s.present c).responses = s.responses := rfl
@[simp] theorem State.present_host (s : State) (c : Command) : (s.present c).host = s.host := rfl
@[simp] theorem State.present_source (s : State) (c : Command) : (s.present c).source = s.source := rfl
@[simp] theorem State.present_getW (s : State) (c : Command) (q : RegNum) : (s.present c).getW q = s.getW q := rfl

/-! `State.setHost` -/

@[simp] theorem State.setHost_w (s : State) (es : List HostEvent) : (s.setHost es).w = s.w := rfl
@[simp] theorem State.setHost_fstate (s : State) (es : List HostEvent) : (s.setHost es).fstate = s.fstate := rfl
@[simp] theorem State.setHost_fkey (s : State) (es : List HostEvent) : (s.setHost es).fkey = s.fkey := rfl
@[simp] theorem State.setHost_fctr (s : State) (es : List HostEvent) : (s.setHost es).fctr = s.fctr := rfl
@[simp] theorem State.setHost_fidx (s : State) (es : List HostEvent) : (s.setHost es).fidx = s.fidx := rfl
@[simp] theorem State.setHost_fvalid (s : State) (es : List HostEvent) : (s.setHost es).fvalid = s.fvalid := rfl
@[simp] theorem State.setHost_flt (s : State) (es : List HostEvent) : (s.setHost es).flt = s.flt := rfl
@[simp] theorem State.setHost_cause (s : State) (es : List HostEvent) : (s.setHost es).cause = s.cause := rfl
@[simp] theorem State.setHost_ecmd (s : State) (es : List HostEvent) : (s.setHost es).ecmd = s.ecmd := rfl
@[simp] theorem State.setHost_pulls (s : State) (es : List HostEvent) : (s.setHost es).pulls = s.pulls := rfl
@[simp] theorem State.setHost_cmd (s : State) (es : List HostEvent) : (s.setHost es).cmd = s.cmd := rfl
@[simp] theorem State.setHost_outstanding (s : State) (es : List HostEvent) : (s.setHost es).outstanding = s.outstanding := rfl
@[simp] theorem State.setHost_responses (s : State) (es : List HostEvent) : (s.setHost es).responses = s.responses := rfl
@[simp] theorem State.setHost_host (s : State) (es : List HostEvent) : (s.setHost es).host = es := rfl
@[simp] theorem State.setHost_source (s : State) (es : List HostEvent) : (s.setHost es).source = s.source := rfl
@[simp] theorem State.setHost_getW (s : State) (es : List HostEvent) (q : RegNum) : (s.setHost es).getW q = s.getW q := rfl

/-! `State.withSource` -/

@[simp] theorem State.withSource_w (s : State) (src : Source) : (s.withSource src).w = s.w := rfl
@[simp] theorem State.withSource_fstate (s : State) (src : Source) : (s.withSource src).fstate = s.fstate := rfl
@[simp] theorem State.withSource_fkey (s : State) (src : Source) : (s.withSource src).fkey = s.fkey := rfl
@[simp] theorem State.withSource_fctr (s : State) (src : Source) : (s.withSource src).fctr = s.fctr := rfl
@[simp] theorem State.withSource_fidx (s : State) (src : Source) : (s.withSource src).fidx = s.fidx := rfl
@[simp] theorem State.withSource_fvalid (s : State) (src : Source) : (s.withSource src).fvalid = s.fvalid := rfl
@[simp] theorem State.withSource_flt (s : State) (src : Source) : (s.withSource src).flt = s.flt := rfl
@[simp] theorem State.withSource_cause (s : State) (src : Source) : (s.withSource src).cause = s.cause := rfl
@[simp] theorem State.withSource_ecmd (s : State) (src : Source) : (s.withSource src).ecmd = s.ecmd := rfl
@[simp] theorem State.withSource_pulls (s : State) (src : Source) : (s.withSource src).pulls = s.pulls := rfl
@[simp] theorem State.withSource_cmd (s : State) (src : Source) : (s.withSource src).cmd = s.cmd := rfl
@[simp] theorem State.withSource_outstanding (s : State) (src : Source) : (s.withSource src).outstanding = s.outstanding := rfl
@[simp] theorem State.withSource_responses (s : State) (src : Source) : (s.withSource src).responses = s.responses := rfl
@[simp] theorem State.withSource_host (s : State) (src : Source) : (s.withSource src).host = s.host := rfl
@[simp] theorem State.withSource_source (s : State) (src : Source) : (s.withSource src).source = src := rfl
@[simp] theorem State.withSource_getW (s : State) (src : Source) (q : RegNum) : (s.withSource src).getW q = s.getW q := rfl

/-! `State.setOutstanding` -/

@[simp] theorem State.setOutstanding_w (s : State) (b : Bool) : (s.setOutstanding b).w = s.w := rfl
@[simp] theorem State.setOutstanding_fstate (s : State) (b : Bool) : (s.setOutstanding b).fstate = s.fstate := rfl
@[simp] theorem State.setOutstanding_fkey (s : State) (b : Bool) : (s.setOutstanding b).fkey = s.fkey := rfl
@[simp] theorem State.setOutstanding_fctr (s : State) (b : Bool) : (s.setOutstanding b).fctr = s.fctr := rfl
@[simp] theorem State.setOutstanding_fidx (s : State) (b : Bool) : (s.setOutstanding b).fidx = s.fidx := rfl
@[simp] theorem State.setOutstanding_fvalid (s : State) (b : Bool) : (s.setOutstanding b).fvalid = s.fvalid := rfl
@[simp] theorem State.setOutstanding_flt (s : State) (b : Bool) : (s.setOutstanding b).flt = s.flt := rfl
@[simp] theorem State.setOutstanding_cause (s : State) (b : Bool) : (s.setOutstanding b).cause = s.cause := rfl
@[simp] theorem State.setOutstanding_ecmd (s : State) (b : Bool) : (s.setOutstanding b).ecmd = s.ecmd := rfl
@[simp] theorem State.setOutstanding_pulls (s : State) (b : Bool) : (s.setOutstanding b).pulls = s.pulls := rfl
@[simp] theorem State.setOutstanding_cmd (s : State) (b : Bool) : (s.setOutstanding b).cmd = s.cmd := rfl
@[simp] theorem State.setOutstanding_outstanding (s : State) (b : Bool) : (s.setOutstanding b).outstanding = b := rfl
@[simp] theorem State.setOutstanding_responses (s : State) (b : Bool) : (s.setOutstanding b).responses = s.responses := rfl
@[simp] theorem State.setOutstanding_host (s : State) (b : Bool) : (s.setOutstanding b).host = s.host := rfl
@[simp] theorem State.setOutstanding_source (s : State) (b : Bool) : (s.setOutstanding b).source = s.source := rfl
@[simp] theorem State.setOutstanding_getW (s : State) (b : Bool) (q : RegNum) : (s.setOutstanding b).getW q = s.getW q := rfl

/-! Reading a register after a write (R21). -/

@[simp] theorem State.setW_getW_same (s : State) (r : RegNum) (v : Wide) : (s.setW r v).getW r = v := by
  simp [State.getW, State.setW]

theorem State.setW_getW_other (s : State) {r q : RegNum} (v : Wide) (h : q ≠ r) :
    (s.setW r v).getW q = s.getW q := by
  have : r.val ≠ q.val := fun e => h (Fin.ext e.symm)
  simp [State.getW, State.setW, this]

theorem State.setW_getW (s : State) (r q : RegNum) (v : Wide) :
    (s.setW r v).getW q = if q = r then v else s.getW q := by
  by_cases h : q = r
  · subst h; simp
  · simp [h, State.setW_getW_other]

/-! The composite operations. -/

/-! `answer` -/

@[simp] theorem answer_w (s : State) (d : Word) : (answer d s).w = s.w := rfl
@[simp] theorem answer_fstate (s : State) (d : Word) : (answer d s).fstate = s.fstate := rfl
@[simp] theorem answer_fkey (s : State) (d : Word) : (answer d s).fkey = s.fkey := rfl
@[simp] theorem answer_fctr (s : State) (d : Word) : (answer d s).fctr = s.fctr := rfl
@[simp] theorem answer_fidx (s : State) (d : Word) : (answer d s).fidx = s.fidx := rfl
@[simp] theorem answer_fvalid (s : State) (d : Word) : (answer d s).fvalid = s.fvalid := rfl
@[simp] theorem answer_flt (s : State) (d : Word) : (answer d s).flt = s.flt := rfl
@[simp] theorem answer_cause (s : State) (d : Word) : (answer d s).cause = s.cause := rfl
@[simp] theorem answer_ecmd (s : State) (d : Word) : (answer d s).ecmd = s.ecmd := rfl
@[simp] theorem answer_pulls (s : State) (d : Word) : (answer d s).pulls = s.pulls := rfl
@[simp] theorem answer_cmd (s : State) (d : Word) : (answer d s).cmd = s.cmd := rfl
@[simp] theorem answer_outstanding (s : State) (d : Word) : (answer d s).outstanding = s.outstanding := rfl
@[simp] theorem answer_responses (s : State) (d : Word) : (answer d s).responses = s.responses ++ [{ status := 0, dout := d }] := rfl
@[simp] theorem answer_host (s : State) (d : Word) : (answer d s).host = s.host := rfl
@[simp] theorem answer_source (s : State) (d : Word) : (answer d s).source = s.source := rfl
@[simp] theorem answer_getW (s : State) (d : Word) (q : RegNum) : (answer d s).getW q = s.getW q := rfl

/-! `writeResult` -/

@[simp] theorem writeResult_w (s : State) (r : RegNum) (v : Wide) : (writeResult r v s).w = s.w.set r v := rfl
@[simp] theorem writeResult_fstate (s : State) (r : RegNum) (v : Wide) : (writeResult r v s).fstate = s.fstate := rfl
@[simp] theorem writeResult_fkey (s : State) (r : RegNum) (v : Wide) : (writeResult r v s).fkey = s.fkey := rfl
@[simp] theorem writeResult_fctr (s : State) (r : RegNum) (v : Wide) : (writeResult r v s).fctr = s.fctr := rfl
@[simp] theorem writeResult_fidx (s : State) (r : RegNum) (v : Wide) : (writeResult r v s).fidx = s.fidx := rfl
@[simp] theorem writeResult_fvalid (s : State) (r : RegNum) (v : Wide) : (writeResult r v s).fvalid = s.fvalid := rfl
@[simp] theorem writeResult_flt (s : State) (r : RegNum) (v : Wide) : (writeResult r v s).flt = s.flt := rfl
@[simp] theorem writeResult_cause (s : State) (r : RegNum) (v : Wide) : (writeResult r v s).cause = s.cause := rfl
@[simp] theorem writeResult_ecmd (s : State) (r : RegNum) (v : Wide) : (writeResult r v s).ecmd = s.ecmd := rfl
@[simp] theorem writeResult_pulls (s : State) (r : RegNum) (v : Wide) : (writeResult r v s).pulls = s.pulls := rfl
@[simp] theorem writeResult_cmd (s : State) (r : RegNum) (v : Wide) : (writeResult r v s).cmd = s.cmd := rfl
@[simp] theorem writeResult_outstanding (s : State) (r : RegNum) (v : Wide) : (writeResult r v s).outstanding = s.outstanding := rfl
@[simp] theorem writeResult_responses (s : State) (r : RegNum) (v : Wide) : (writeResult r v s).responses = s.responses ++ [{ status := 0, dout := v.setWidth 64 }] := rfl
@[simp] theorem writeResult_host (s : State) (r : RegNum) (v : Wide) : (writeResult r v s).host = s.host := rfl
@[simp] theorem writeResult_source (s : State) (r : RegNum) (v : Wide) : (writeResult r v s).source = s.source := rfl
@[simp] theorem writeResult_getW_same (s : State) (r : RegNum) (v : Wide) : (writeResult r v s).getW r = v :=
  State.setW_getW_same s r v
theorem writeResult_getW (s : State) (r q : RegNum) (v : Wide) :
    (writeResult r v s).getW q = if q = r then v else s.getW q :=
  State.setW_getW s r q v

/-! `takeFault` -/

@[simp] theorem takeFault_w (s : State) (f : CmdFault) : (takeFault f s).w = s.w := rfl
@[simp] theorem takeFault_fstate (s : State) (f : CmdFault) : (takeFault f s).fstate = s.fstate := rfl
@[simp] theorem takeFault_fkey (s : State) (f : CmdFault) : (takeFault f s).fkey = s.fkey := rfl
@[simp] theorem takeFault_fctr (s : State) (f : CmdFault) : (takeFault f s).fctr = s.fctr := rfl
@[simp] theorem takeFault_fidx (s : State) (f : CmdFault) : (takeFault f s).fidx = s.fidx := rfl
@[simp] theorem takeFault_fvalid (s : State) (f : CmdFault) : (takeFault f s).fvalid = s.fvalid := rfl
@[simp] theorem takeFault_flt (s : State) (f : CmdFault) : (takeFault f s).flt = true := rfl
@[simp] theorem takeFault_cause (s : State) (f : CmdFault) : (takeFault f s).cause = faultCode f := rfl
@[simp] theorem takeFault_ecmd (s : State) (f : CmdFault) : (takeFault f s).ecmd = s.cmd.cw := rfl
@[simp] theorem takeFault_pulls (s : State) (f : CmdFault) : (takeFault f s).pulls = s.pulls := rfl
@[simp] theorem takeFault_cmd (s : State) (f : CmdFault) : (takeFault f s).cmd = s.cmd := rfl
@[simp] theorem takeFault_outstanding (s : State) (f : CmdFault) : (takeFault f s).outstanding = s.outstanding := rfl
@[simp] theorem takeFault_responses (s : State) (f : CmdFault) : (takeFault f s).responses = s.responses ++ [{ status := faultCode f, dout := 0 }] := rfl
@[simp] theorem takeFault_host (s : State) (f : CmdFault) : (takeFault f s).host = s.host := rfl
@[simp] theorem takeFault_source (s : State) (f : CmdFault) : (takeFault f s).source = s.source := rfl
@[simp] theorem takeFault_getW (s : State) (f : CmdFault) (q : RegNum) : (takeFault f s).getW q = s.getW q := rfl

/-! `clearRecord` -/

@[simp] theorem clearRecord_w (s : State) : (clearRecord s).w = s.w := rfl
@[simp] theorem clearRecord_fstate (s : State) : (clearRecord s).fstate = s.fstate := rfl
@[simp] theorem clearRecord_fkey (s : State) : (clearRecord s).fkey = s.fkey := rfl
@[simp] theorem clearRecord_fctr (s : State) : (clearRecord s).fctr = s.fctr := rfl
@[simp] theorem clearRecord_fidx (s : State) : (clearRecord s).fidx = s.fidx := rfl
@[simp] theorem clearRecord_fvalid (s : State) : (clearRecord s).fvalid = s.fvalid := rfl
@[simp] theorem clearRecord_flt (s : State) : (clearRecord s).flt = false := rfl
@[simp] theorem clearRecord_cause (s : State) : (clearRecord s).cause = 0 := rfl
@[simp] theorem clearRecord_ecmd (s : State) : (clearRecord s).ecmd = 0 := rfl
@[simp] theorem clearRecord_pulls (s : State) : (clearRecord s).pulls = s.pulls := rfl
@[simp] theorem clearRecord_cmd (s : State) : (clearRecord s).cmd = s.cmd := rfl
@[simp] theorem clearRecord_outstanding (s : State) : (clearRecord s).outstanding = s.outstanding := rfl
@[simp] theorem clearRecord_responses (s : State) : (clearRecord s).responses = s.responses := rfl
@[simp] theorem clearRecord_host (s : State) : (clearRecord s).host = s.host := rfl
@[simp] theorem clearRecord_source (s : State) : (clearRecord s).source = s.source := rfl
@[simp] theorem clearRecord_getW (s : State) (q : RegNum) : (clearRecord s).getW q = s.getW q := rfl

/-! `stall` -/

@[simp] theorem stall_w (s : State) : (stall s).w = s.w := rfl
@[simp] theorem stall_fstate (s : State) : (stall s).fstate = s.fstate := rfl
@[simp] theorem stall_fkey (s : State) : (stall s).fkey = s.fkey := rfl
@[simp] theorem stall_fctr (s : State) : (stall s).fctr = s.fctr := rfl
@[simp] theorem stall_fidx (s : State) : (stall s).fidx = s.fidx := rfl
@[simp] theorem stall_fvalid (s : State) : (stall s).fvalid = s.fvalid := rfl
@[simp] theorem stall_flt (s : State) : (stall s).flt = s.flt := rfl
@[simp] theorem stall_cause (s : State) : (stall s).cause = s.cause := rfl
@[simp] theorem stall_ecmd (s : State) : (stall s).ecmd = s.ecmd := rfl
@[simp] theorem stall_pulls (s : State) : (stall s).pulls = s.pulls := rfl
@[simp] theorem stall_cmd (s : State) : (stall s).cmd = s.cmd := rfl
@[simp] theorem stall_outstanding (s : State) : (stall s).outstanding = true := rfl
@[simp] theorem stall_responses (s : State) : (stall s).responses = s.responses := rfl
@[simp] theorem stall_host (s : State) : (stall s).host = s.host := rfl
@[simp] theorem stall_source (s : State) : (stall s).source = s.source := rfl
@[simp] theorem stall_getW (s : State) (q : RegNum) : (stall s).getW q = s.getW q := rfl

/-- Two states are equal when their fields are, register by register. -/
theorem State.ext_getW {s t : State} (hw : ∀ r, s.getW r = t.getW r) (h1 : s.fstate = t.fstate)
    (h2 : s.fkey = t.fkey) (h3 : s.fctr = t.fctr) (h4 : s.fidx = t.fidx) (h5 : s.fvalid = t.fvalid)
    (h6 : s.flt = t.flt) (h7 : s.cause = t.cause) (h8 : s.ecmd = t.ecmd) (h9 : s.pulls = t.pulls)
    (h10 : s.cmd = t.cmd) (h11 : s.responses = t.responses) (h12 : s.host = t.host)
    (h13 : s.source = t.source) (h14 : s.outstanding = t.outstanding) : s = t := by
  have hv : s.w = t.w := by
    apply Vector.ext
    intro i hi
    exact hw ⟨i, hi⟩
  cases s; cases t; simp_all

/-- A register after reset is zero (R37). -/
@[simp] theorem State.reset_getW (r : RegNum) : State.reset.getW r = 0 := by
  simp [State.getW, State.reset]

end Sys2Proof.Machine
end

