-- ==== Sys2Proof/Laws/Ops.lean ====
section
/-!
SUPPORT. What each shared operation can do, said once: the checks, the pulls and the word source, so that a proof
cites these and unfolds no operation.
-/

namespace Sys2Proof.Machine

/-! ### Checks -/

@[simp] theorem checked_some (f : CmdFault) (s : State) (go : Out) : checked (some f) s go = .next (takeFault f s) :=
  rfl

@[simp] theorem checked_none (s : State) (go : Out) : checked none s go = go := rfl

/-- Everything the mask checks can answer (R85). -/
theorem maskFault_cases {n : Nat} (m : BitVec n) (b : Nat) :
    (m = 0 ∧ maskFault m b = some .invalidMask) ∨
    (m ≠ 0 ∧ b < popcount m ∧ maskFault m b = some .maskTooWide) ∨
    (m ≠ 0 ∧ popcount m ≤ b ∧ maskFault m b = none) := by
  unfold maskFault
  by_cases h : m = 0
  · exact .inl ⟨h, if_pos h⟩
  · by_cases hb : b < popcount m
    · exact .inr (.inl ⟨h, hb, by rw [if_neg h, if_pos hb]⟩)
    · exact .inr (.inr ⟨h, by omega, by rw [if_neg h, if_neg hb]⟩)

/-- Everything the bit-count check can answer (R96, R97). -/
theorem countFault_cases (n : Nat) :
    ((n < 1 ∨ 63 < n) ∧ countFault n = some .invalidBitCount) ∨
    (1 ≤ n ∧ n ≤ 63 ∧ countFault n = none) := by
  unfold countFault
  by_cases h : n < 1 ∨ 63 < n
  · exact .inl ⟨h, if_pos h⟩
  · exact .inr ⟨by omega, by omega, if_neg h⟩

/-- Everything the width check of SPONGE can answer (R100). -/
theorem spongeFault_cases (w : Nat) :
    (w ∈ spongeWidths ∧ spongeFault w = none) ∨ (w ∉ spongeWidths ∧ spongeFault w = some .invalidBitCount) := by
  unfold spongeFault
  by_cases h : w ∈ spongeWidths <;> simp [h]

/-- Everything the checks of CONSTRUCT can answer (R104). -/
theorem constructFault_cases (m : Word) (t : Nat) :
    (m = 0 ∧ constructFault m t = some .invalidMask) ∨
    (m ≠ 0 ∧ t < popcount m ∧ constructFault m t = some .maskTooWide) ∨
    (m ≠ 0 ∧ popcount m ≤ t ∧ 64 < t ∧ constructFault m t = some .invalidBitCount) ∨
    (m ≠ 0 ∧ popcount m ≤ t ∧ t ≤ 64 ∧ t % popcount m ≠ 0 ∧ constructFault m t = some .invalidBitCount) ∨
    (m ≠ 0 ∧ popcount m ≤ t ∧ t ≤ 64 ∧ t % popcount m = 0 ∧ constructFault m t = none) := by
  unfold constructFault
  by_cases h : m = 0
  · exact .inl ⟨h, if_pos h⟩
  · rw [if_neg h]
    by_cases hb : t < popcount m
    · exact .inr (.inl ⟨h, hb, if_pos hb⟩)
    · rw [if_neg hb]
      by_cases hc : 64 < t
      · exact .inr (.inr (.inl ⟨h, by omega, hc, if_pos hc⟩))
      · rw [if_neg hc]
        by_cases hd : t % popcount m = 0
        · exact .inr (.inr (.inr (.inr ⟨h, by omega, by omega, hd, if_neg (not_not.2 hd)⟩)))
        · exact .inr (.inr (.inr (.inl ⟨h, by omega, by omega, hd, if_pos hd⟩)))

/-! ### The word source (R6, R198) -/

/-- A source answers when a word is queued or free values follow. -/
theorem sourceNext_isSome_iff (src : Source) :
    (sourceNext src).isSome = true ↔ src.after = .free ∨ 1 ≤ src.queued.length := by
  unfold sourceNext
  cases hq : src.queued with
  | cons x xs => simp
  | nil => cases ha : src.after <;> simp

/-- What a draw leaves of the source: the same tail and seed, one word fewer in the queue, one more drawn. -/
theorem sourceNext_rest {src src1 : Source} {x : Word} (h : sourceNext src = some (x, src1)) :
    src1.after = src.after ∧ src1.seed = src.seed ∧ src1.drawn = src.drawn + 1 ∧
      src1.queued = src.queued.drop 1 := by
  unfold sourceNext at h
  cases hq : src.queued with
  | cons y ys => simp only [hq, Option.some.injEq, Prod.mk.injEq] at h; simp [← h.2]
  | nil =>
    cases ha : src.after with
    | free => simp only [hq, ha, Option.some.injEq, Prod.mk.injEq] at h; simp [← h.2]
    | silent => simp [hq, ha] at h

theorem upcoming_succ {src src1 : Source} {x : Word} (h : sourceNext src = some (x, src1)) (n : Nat) :
    upcoming (n + 1) src = x :: upcoming n src1 := by
  simp [upcoming, h]

theorem dropWords_succ {src src1 : Source} {x : Word} (h : sourceNext src = some (x, src1)) (n : Nat) :
    dropWords (n + 1) src = dropWords n src1 := by
  simp [dropWords, h]

@[simp] theorem upcoming_zero (src : Source) : upcoming 0 src = [] := rfl

@[simp] theorem dropWords_zero (src : Source) : dropWords 0 src = src := rfl

/-- The source answers `n` pulls exactly when `n` words are coming. -/
theorem answers_iff_upcoming (s : State) (n : Nat) : s.Answers n ↔ (upcoming n s.source).length = n := by
  unfold State.Answers
  generalize s.source = src
  induction n generalizing src with
  | zero => simp
  | succ n ih =>
    cases h : sourceNext src with
    | none =>
      have := (not_congr (sourceNext_isSome_iff src)).1 (by simp [h])
      simp only [upcoming, h, List.length_nil]
      constructor
      · rintro (h1 | h1)
        · exact absurd (Or.inl h1) this
        · exact absurd (Or.inr (by omega)) this
      · omega
    | some p =>
      obtain ⟨x, src1⟩ := p
      have hr := sourceNext_rest h
      rw [upcoming_succ h, List.length_cons]
      have := ih src1
      rw [hr.1, hr.2.2.2, List.length_drop] at this
      have hs := (sourceNext_isSome_iff src).1 (by simp [h])
      constructor
      · rintro (h1 | h1)
        · have := this.1 (Or.inl h1); omega
        · have := this.1 (Or.inr (by omega)); omega
      · intro h1
        rcases this.2 (by omega) with h2 | h2
        · exact Or.inl h2
        · rcases hs with h3 | h3
          · exact Or.inl h3
          · exact Or.inr (by omega)

/-! ### Pulls (R13, R34) -/

theorem pull_some {s : State} {x : Word} {src : Source} (h : sourceNext s.source = some (x, src)) :
    pull s = some (x, s.setSource src (s.pulls + 1)) := by
  simp [pull, h]

theorem pull_none {s : State} (h : sourceNext s.source = none) : pull s = none := by
  simp [pull, h]

/-- The state of a command that waits for a word that does not come (R198): the words that came are gone and
counted. -/
def stalled (n : Nat) (s : State) : State :=
  stall (s.setSource (dropWords n s.source) (s.pulls + BitVec.ofNat 64 (upcoming n s.source).length))

/-- Everything a command that pulls one word can do, by what the source does. -/
theorem withWord_next (s : State) (go : Word → State → Out) :
    withWord s go =
      match sourceNext s.source with
      | some (x, src) => go x (s.setSource src (s.pulls + 1))
      | none => .next (stall s) := by
  unfold withWord
  cases h : sourceNext s.source with
  | none => simp [pull_none h]
  | some p => simp [pull_some h]

/-- Everything a command that pulls `n` words can do. -/
theorem withWords_cases (n : Nat) (s : State) (go : List Word → State → Out) :
    (s.Answers n ∧ withWords n s go =
      go (upcoming n s.source) (s.setSource (dropWords n s.source) (s.pulls + BitVec.ofNat 64 n))) ∨
    (¬ s.Answers n ∧ withWords n s go = .next (stalled n s)) := by
  induction n generalizing s go with
  | zero => exact Or.inl ⟨(answers_iff_upcoming s 0).2 rfl, by simp [withWords, State.setSource]⟩
  | succ n ih =>
    rw [answers_iff_upcoming]
    unfold withWords
    rw [withWord_next]
    cases hn : sourceNext s.source with
    | none =>
      refine Or.inr ⟨by simp [upcoming, hn], ?_⟩
      simp [stalled, upcoming, dropWords, hn, State.setSource]
    | some p =>
      obtain ⟨x, src⟩ := p
      simp only [upcoming_succ hn, dropWords_succ hn, List.length_cons, Nat.add_right_cancel_iff]
      have key : ∀ k : Nat, s.pulls + 1 + BitVec.ofNat 64 k = s.pulls + BitVec.ofNat 64 (k + 1) := fun k => by
        simp [BitVec.ofNat_add, BitVec.add_assoc, BitVec.add_comm 1#64]
      rcases ih (s.setSource src (s.pulls + 1)) (fun xs s2 => go (x :: xs) s2) with ⟨ha, hw⟩ | ⟨ha, hw⟩ <;>
        rw [answers_iff_upcoming] at ha
      · exact Or.inl ⟨ha, hw.trans (by simp only [State.setSource, key])⟩
      · refine Or.inr ⟨ha, hw.trans ?_⟩
        simp only [stalled, State.setSource, key, upcoming_succ hn, dropWords_succ hn, List.length_cons]

/-- Everything a command that pulls one word can do. -/
theorem withWord_cases (s : State) (go : Word → State → Out) :
    (∃ x, s.Answers 1 ∧ upcoming 1 s.source = [x] ∧ withWord s go =
      go x (s.setSource (dropWords 1 s.source) (s.pulls + 1))) ∨
    (¬ s.Answers 1 ∧ withWord s go = .next (stalled 1 s)) := by
  rw [answers_iff_upcoming, withWord_next]
  cases hn : sourceNext s.source with
  | none => exact Or.inr ⟨by simp [upcoming, hn], by simp [stalled, upcoming, dropWords, hn, State.setSource]⟩
  | some p =>
    obtain ⟨x, src⟩ := p
    exact Or.inl ⟨x, by simp [upcoming_succ hn], by simp [upcoming_succ hn], by simp [dropWords_succ hn]⟩

end Sys2Proof.Machine
end

