-- ==== Sys2Proof/Laws/Exec.lean ====
section
/-!
SUPPORT. Everything `exec` can do, said once (`exec_cases`): take the fault of R171's table, complete with the words of
R199's table, or stay outstanding on a silent source. `effect` is the state a command leaves when it completes, as a
function of the words it pulled; whole-machine proofs go by cases on it.
-/

namespace Sys2Proof.Machine

/-- The state a command leaves when it completes: `s` is the state before it, `s1` the state after its pulls, `xs`
the words pulled. -/
def effect (i : Instr) (s : State) (xs : List Word) (s1 : State) : State :=
  match i with
  | .nop => answer 0 s1
  | .ldz rd => writeResult rd (s.cmd.din.setWidth 512) s1
  | .wrl rd lane => answer 0 (s1.setW rd (setLane (s.getW rd) lane s.cmd.din))
  | .rdl rs1 lane => answer (readLane rs1 lane s) s1
  | .rdcsr rd csr => writeResult rd (((csrValue csr s).getD 0).setWidth 512) s1
  | .clrf => answer 0 (clearRecord s1)
  | .popcnt ws rd rs1 => writeResult rd (BitVec.ofNat 512 (popcount (readAt ws rs1 s))) s1
  | .tzcnt ws rd rs1 => writeResult rd (BitVec.ofNat 512 (tz (readAt ws rs1 s))) s1
  | .pext ws rd rs1 rs2 _ => writeResult rd ((pext (readAt ws rs1 s) (readAt ws rs2 s)).setWidth 512) s1
  | .pdep ws rd rs1 rs2 _ => writeResult rd ((pdep (readAt ws rs1 s) (readAt ws rs2 s)).setWidth 512) s1
  | .trunc rd n => writeResult rd (((xs.getD 0 0).extractLsb' 0 n).setWidth 512) s1
  | .shift rd n => writeResult rd ((xs.getD 0 0 >>> (64 - n)).setWidth 512) s1
  | .mext8 rd rs2 => writeResult rd ((pext (xs.getD 0 0) (readLow rs2 s)).setWidth 512) s1
  | .mext16 rd rs2 => writeResult rd ((pext (xs.getD 0 0) (readLow rs2 s)).setWidth 512) s1
  | .mext32 rd rs2 => writeResult rd ((pext (xs.getD 0 0) (readLow rs2 s)).setWidth 512) s1
  | .mext63 rd rs2 => writeResult rd ((pext (xs.getD 0 0) (readLow rs2 s)).setWidth 512) s1
  | .sponge rd width => writeResult rd ((sponge (xs.getD 0 0) width).setWidth 512) s1
  | .construct rd rs2 _ =>
    writeResult rd ((accumulate (readLow rs2 s) (popcount (readLow rs2 s)) xs).setWidth 512) s1
  | .slice2 rd rs1 => writeResult rd (packLanes (parts (readLow rs1 s) 32 2 0)) s1
  | .slice4 rd rs1 => writeResult rd (packLanes (parts (readLow rs1 s) 16 4 0)) s1
  | .slice8 rd rs1 => writeResult rd (packLanes (parts (readLow rs1 s) 8 8 0)) s1
  | .concat _ rd => writeResult rd (packLanes xs) s1
  | .mixexp ws rd => writeResult rd (packLanes (mixChain config.mix (xs.getD 0 0) (opWords ws))) s1
  | .spread ws rd rs2 =>
    writeResult rd ((pdep ((xs.getD 0 0).setWidth (opBits ws)) (readAt ws rs2 s)).setWidth 512) s1
  | .fseed => answer 0 ((s1.setFeistel (xs.getD 0 0) (xs.getD 1 0) (xs.getD 2 0) 0).setFvalid true)
  | .fblk rd =>
    let sk := iterateMany config.feistelF (blockIterations s.fctr s.fidx) (s.fstate, s.fkey)
    writeResult rd (sk.1.setWidth 512) (advanceCursor sk s1)

/-- The state after a command's pulls. -/
def afterPulls (n : Nat) (s : State) : State :=
  s.setSource (dropWords n s.source) (s.pulls + BitVec.ofNat 64 n)

@[simp] theorem afterPulls_zero (s : State) : afterPulls 0 s = s := by
  simp [afterPulls, State.setSource]

@[simp] theorem afterPulls_getW (n : Nat) (s : State) (q : RegNum) : (afterPulls n s).getW q = s.getW q := rfl

@[simp] theorem answers_zero (s : State) : s.Answers 0 := Or.inr (Nat.zero_le _)

/-- The three ways a command ends. -/
def Ends (i : Instr) (s : State) (o : Out) : Prop :=
  (∃ f, commandFault i s = some f ∧ o = .next (takeFault f s)) ∨
  (commandFault i s = none ∧ s.Answers (pullsOnSuccess i s) ∧
    o = .next (effect i s (upcoming (pullsOnSuccess i s) s.source) (afterPulls (pullsOnSuccess i s) s))) ∨
  (commandFault i s = none ∧ ¬ s.Answers (pullsOnSuccess i s) ∧ o = .next (stalled (pullsOnSuccess i s) s))

/-- A command without checks and pulls. -/
theorem ends_plain {i : Instr} {s : State} (hf : commandFault i s = none) (hp : pullsOnSuccess i s = 0) :
    Ends i s (.next (effect i s [] s)) := by
  refine Or.inr (Or.inl ⟨hf, ?_, ?_⟩)
  · rw [hp]; exact answers_zero s
  · rw [hp, afterPulls_zero, upcoming_zero]

/-- A command with checks. -/
theorem ends_checked {i : Instr} {s : State} {go : Out} (h : commandFault i s = none → Ends i s go) :
    Ends i s (checked (commandFault i s) s go) := by
  cases hf : commandFault i s with
  | some f => exact Or.inl ⟨f, hf, rfl⟩
  | none => exact h hf

/-- A command that pulls one word. -/
theorem ends_withWord {i : Instr} {s : State} {go : Word → State → Out} (hf : commandFault i s = none)
    (hp : pullsOnSuccess i s = 1) (h : ∀ x, go x (afterPulls 1 s) = .next (effect i s [x] (afterPulls 1 s))) :
    Ends i s (withWord s go) := by
  rcases withWord_cases s go with ⟨x, ha, hu, hw⟩ | ⟨ha, hw⟩
  · refine Or.inr (Or.inl ⟨hf, hp ▸ ha, ?_⟩)
    rw [hw, hp, hu]
    exact h x
  · exact Or.inr (Or.inr ⟨hf, hp ▸ ha, by rw [hp]; exact hw⟩)

/-- A command that pulls `n` words. -/
theorem ends_withWords {i : Instr} {s : State} {n : Nat} {go : List Word → State → Out}
    (hf : commandFault i s = none) (hp : pullsOnSuccess i s = n)
    (h : ∀ xs, go xs (afterPulls n s) = .next (effect i s xs (afterPulls n s))) :
    Ends i s (withWords n s go) := by
  subst hp
  rcases withWords_cases (pullsOnSuccess i s) s go with ⟨ha, hw⟩ | ⟨ha, hw⟩
  · exact Or.inr (Or.inl ⟨hf, ha, by rw [hw]; exact h _⟩)
  · exact Or.inr (Or.inr ⟨hf, ha, hw⟩)

/-- FSEED's three pulls are the pulls of three words (R131). -/
theorem fseed_pulls (s : State) (go : Word → Word → Word → State → Out) :
    (withWord s fun a s1 => withWord s1 fun b s2 => withWord s2 fun c s3 => go a b c s3) =
      withWords 3 s fun xs s3 => go (xs.getD 0 0) (xs.getD 1 0) (xs.getD 2 0) s3 := rfl

/-- RDCSR's check and its table of registers agree (R25, R154). -/
theorem csrValue_isSome (n : Nat) (s : State) : (csrValue n s).isSome = !decide (7 < n) := by
  rcases n with _ | _ | _ | _ | _ | _ | _ | _ | n <;> simp [csrValue]

/-- Everything `exec` can do. -/
theorem exec_cases (i : Instr) (s : State) : Ends i s (exec i s) := by
  match i with
  | .nop => exact ends_plain rfl rfl
  | .ldz _ => exact ends_plain rfl rfl
  | .wrl _ _ => exact ends_plain rfl rfl
  | .rdl _ _ => exact ends_plain rfl rfl
  | .rdcsr rd csr =>
    have hs := csrValue_isSome csr s
    show Ends _ _ (execRdcsr rd csr s)
    unfold execRdcsr
    cases hc : csrValue csr s with
    | none =>
      have h7 : 7 < csr := by simpa [hc] using hs
      exact Or.inl ⟨.illegalCommand, if_pos h7, rfl⟩
    | some c =>
      have h7 : ¬ 7 < csr := by simpa [hc] using hs
      have := ends_plain (i := .rdcsr rd csr) (s := s) (if_neg h7) rfl
      simpa [effect, hc] using this
  | .clrf => exact ends_plain rfl rfl
  | .popcnt _ _ _ => exact ends_plain rfl rfl
  | .tzcnt _ _ _ => exact ends_plain rfl rfl
  | .pext _ _ _ _ _ => exact ends_checked fun h => ends_plain h rfl
  | .pdep _ _ _ _ _ => exact ends_checked fun h => ends_plain h rfl
  | .trunc _ _ => exact ends_checked fun h => ends_withWord h rfl fun _ => rfl
  | .shift _ _ => exact ends_checked fun h => ends_withWord h rfl fun _ => rfl
  | .mext8 _ _ => exact ends_checked fun h => ends_withWord h rfl fun _ => rfl
  | .mext16 _ _ => exact ends_checked fun h => ends_withWord h rfl fun _ => rfl
  | .mext32 _ _ => exact ends_checked fun h => ends_withWord h rfl fun _ => rfl
  | .mext63 _ _ => exact ends_checked fun h => ends_withWord h rfl fun _ => rfl
  | .sponge _ _ => exact ends_checked fun h => ends_withWord h rfl fun _ => rfl
  | .construct _ _ _ => exact ends_checked fun h => ends_withWords h rfl fun _ => rfl
  | .slice2 _ _ => exact ends_plain rfl rfl
  | .slice4 _ _ => exact ends_plain rfl rfl
  | .slice8 _ _ => exact ends_plain rfl rfl
  | .concat _ _ => exact ends_withWords rfl rfl fun _ => rfl
  | .mixexp _ _ => exact ends_withWord rfl rfl fun _ => rfl
  | .spread _ _ _ => exact ends_checked fun h => ends_withWord h rfl fun _ => rfl
  | .fseed =>
    show Ends _ _ (execFseed s)
    unfold execFseed
    rw [fseed_pulls]
    exact ends_withWords rfl rfl fun _ => rfl
  | .fblk rd =>
    show Ends _ _ (nextBlock config.feistelF rd s)
    unfold nextBlock
    cases hv : s.fvalid
    · exact Or.inl ⟨.notSeeded, by simp [commandFault, hv], rfl⟩
    · exact ends_plain (i := .fblk rd) (by simp [commandFault, hv]) rfl

/-- A command answers with its fault, completes, or stays outstanding. -/
theorem exec_next {i : Instr} {s t : State} (h : exec i s = .next t) :
    (∃ f, commandFault i s = some f ∧ t = takeFault f s) ∨
    (commandFault i s = none ∧ s.Answers (pullsOnSuccess i s) ∧
      t = effect i s (upcoming (pullsOnSuccess i s) s.source) (afterPulls (pullsOnSuccess i s) s)) ∨
    (commandFault i s = none ∧ ¬ s.Answers (pullsOnSuccess i s) ∧ t = stalled (pullsOnSuccess i s) s) := by
  rcases exec_cases i s with ⟨f, hf, he⟩ | ⟨hf, ha, he⟩ | ⟨hf, ha, he⟩ <;> rw [h] at he <;> injection he with he
  · exact Or.inl ⟨f, hf, he⟩
  · exact Or.inr (Or.inl ⟨hf, ha, he⟩)
  · exact Or.inr (Or.inr ⟨hf, ha, he⟩)

end Sys2Proof.Machine
end

