-- ==== Sys2Proof/Laws/PerInstr.lean ====
section
/-!
SUPPORT. The family RowMatch, one lemma per constructor of `Instr`: the command word of a well-formed command
matches a row of the opcode map (R62, R63), and that row reads the command back from it.
-/

namespace Sys2Proof.Laws.RowMatch

/-- The word of a well-formed command hits a row of the opcode map, which builds the command again. -/
def Statement (i : Instr) : Prop :=
  i.WellFormed → ∃ r ∈ opRows, r.hits (encode i) = true ∧ r.build (encode i) = i

/-- A row by its place in the opcode map. -/
theorem of_row (i : Instr) (k : Nat) (hk : k < opRows.length)
    (h : i.WellFormed → opRows[k].hits (encode i) = true ∧ opRows[k].build (encode i) = i) : Statement i :=
  fun hw => ⟨opRows[k], List.getElem_mem hk, h hw⟩

theorem nop : Statement .nop := by
  refine of_row _ 0 (by decide) fun hw => ?_
  decide

theorem ldz (rd : RegNum) : Statement (.ldz rd) := by
  refine of_row _ 1 (by decide) fun hw => ?_
  constructor
  · simp only [OpRow.hits, beq_iff_eq]
    show (encode (.ldz rd)) &&& _ = _
    simp only [encode, or_and]
    rw [putRd_and (by decide) rd]
    decide
  · show Instr.ldz (fieldRd _) = _
    rw [fieldRd_eq (r := rd) (by simp [encode, extractLsb'_or])]

theorem wrl (rd : RegNum) (lane : LaneNum) : Statement (.wrl rd lane) := by
  refine of_row _ 2 (by decide) fun hw => ?_
  constructor
  · simp only [OpRow.hits, beq_iff_eq]
    show (encode (.wrl rd lane)) &&& _ = _
    simp only [encode, or_and]
    rw [putRd_and (by decide) rd, putImm_lane_and (by decide) lane]
    decide
  · show Instr.wrl (fieldRd _) (fieldLane _) = _
    rw [fieldRd_eq (r := rd) (by simp [encode, extractLsb'_or]),
        fieldLane_eq (r := lane) (by simp [encode, extractLsb'_or])]

theorem rdl (rs1 : RegNum) (lane : LaneNum) : Statement (.rdl rs1 lane) := by
  refine of_row _ 3 (by decide) fun hw => ?_
  constructor
  · simp only [OpRow.hits, beq_iff_eq]
    show (encode (.rdl rs1 lane)) &&& _ = _
    simp only [encode, or_and]
    rw [putRs1_and (by decide) rs1, putImm_lane_and (by decide) lane]
    decide
  · show Instr.rdl (fieldRs1 _) (fieldLane _) = _
    rw [fieldRs1_eq (r := rs1) (by simp [encode, extractLsb'_or]),
        fieldLane_eq (r := lane) (by simp [encode, extractLsb'_or])]

theorem rdcsr (rd : RegNum) (csr : Nat) : Statement (.rdcsr rd csr) := by
  refine of_row _ 4 (by decide) fun hw => ?_
  have hn : csr < immLimit := hw
  constructor
  · simp only [OpRow.hits, beq_iff_eq]
    show (encode (.rdcsr rd csr)) &&& _ = _
    simp only [encode, or_and]
    rw [putRd_and (by decide) rd, putImm_and (by decide) hn]
    decide
  · show Instr.rdcsr (fieldRd _) (fieldImm _) = _
    rw [fieldRd_eq (r := rd) (by simp [encode, extractLsb'_or]),
        fieldImm_eq hn (by simp [encode, extractLsb'_or])]

theorem clrf : Statement .clrf := by
  refine of_row _ 5 (by decide) fun hw => ?_
  decide

theorem popcnt (ws : Width) (rd : RegNum) (rs1 : RegNum) : Statement (.popcnt ws rd rs1) := by
  refine of_row _ 6 (by decide) fun hw => ?_
  constructor
  · simp only [OpRow.hits, beq_iff_eq]
    show (encode (.popcnt ws rd rs1)) &&& _ = _
    simp only [encode, or_and]
    rw [putWs_and (by decide) ws, putRd_and (by decide) rd, putRs1_and (by decide) rs1]
    decide
  · show Instr.popcnt (fieldWs _) (fieldRd _) (fieldRs1 _) = _
    rw [fieldWs_eq (ws := ws) (by simp [encode, extractLsb'_or]),
        fieldRd_eq (r := rd) (by simp [encode, extractLsb'_or]),
        fieldRs1_eq (r := rs1) (by simp [encode, extractLsb'_or])]

theorem tzcnt (ws : Width) (rd : RegNum) (rs1 : RegNum) : Statement (.tzcnt ws rd rs1) := by
  refine of_row _ 7 (by decide) fun hw => ?_
  constructor
  · simp only [OpRow.hits, beq_iff_eq]
    show (encode (.tzcnt ws rd rs1)) &&& _ = _
    simp only [encode, or_and]
    rw [putWs_and (by decide) ws, putRd_and (by decide) rd, putRs1_and (by decide) rs1]
    decide
  · show Instr.tzcnt (fieldWs _) (fieldRd _) (fieldRs1 _) = _
    rw [fieldWs_eq (ws := ws) (by simp [encode, extractLsb'_or]),
        fieldRd_eq (r := rd) (by simp [encode, extractLsb'_or]),
        fieldRs1_eq (r := rs1) (by simp [encode, extractLsb'_or])]

theorem pext (ws : Width) (rd : RegNum) (rs1 : RegNum) (rs2 : RegNum) (budget : Nat) : Statement (.pext ws rd rs1 rs2 budget) := by
  refine of_row _ 8 (by decide) fun hw => ?_
  have hn : budget < immLimit := hw
  constructor
  · simp only [OpRow.hits, beq_iff_eq]
    show (encode (.pext ws rd rs1 rs2 budget)) &&& _ = _
    simp only [encode, or_and]
    rw [putWs_and (by decide) ws, putRd_and (by decide) rd, putRs1_and (by decide) rs1, putRs2_and (by decide) rs2, putImm_and (by decide) hn]
    decide
  · show Instr.pext (fieldWs _) (fieldRd _) (fieldRs1 _) (fieldRs2 _) (fieldImm _) = _
    rw [fieldWs_eq (ws := ws) (by simp [encode, extractLsb'_or]),
        fieldRd_eq (r := rd) (by simp [encode, extractLsb'_or]),
        fieldRs1_eq (r := rs1) (by simp [encode, extractLsb'_or]),
        fieldRs2_eq (r := rs2) (by simp [encode, extractLsb'_or]),
        fieldImm_eq hn (by simp [encode, extractLsb'_or])]

theorem pdep (ws : Width) (rd : RegNum) (rs1 : RegNum) (rs2 : RegNum) (budget : Nat) : Statement (.pdep ws rd rs1 rs2 budget) := by
  refine of_row _ 9 (by decide) fun hw => ?_
  have hn : budget < immLimit := hw
  constructor
  · simp only [OpRow.hits, beq_iff_eq]
    show (encode (.pdep ws rd rs1 rs2 budget)) &&& _ = _
    simp only [encode, or_and]
    rw [putWs_and (by decide) ws, putRd_and (by decide) rd, putRs1_and (by decide) rs1, putRs2_and (by decide) rs2, putImm_and (by decide) hn]
    decide
  · show Instr.pdep (fieldWs _) (fieldRd _) (fieldRs1 _) (fieldRs2 _) (fieldImm _) = _
    rw [fieldWs_eq (ws := ws) (by simp [encode, extractLsb'_or]),
        fieldRd_eq (r := rd) (by simp [encode, extractLsb'_or]),
        fieldRs1_eq (r := rs1) (by simp [encode, extractLsb'_or]),
        fieldRs2_eq (r := rs2) (by simp [encode, extractLsb'_or]),
        fieldImm_eq hn (by simp [encode, extractLsb'_or])]

theorem trunc (rd : RegNum) (n : Nat) : Statement (.trunc rd n) := by
  refine of_row _ 10 (by decide) fun hw => ?_
  have hn : n < immLimit := hw
  constructor
  · simp only [OpRow.hits, beq_iff_eq]
    show (encode (.trunc rd n)) &&& _ = _
    simp only [encode, or_and]
    rw [putRd_and (by decide) rd, putImm_and (by decide) hn]
    decide
  · show Instr.trunc (fieldRd _) (fieldImm _) = _
    rw [fieldRd_eq (r := rd) (by simp [encode, extractLsb'_or]),
        fieldImm_eq hn (by simp [encode, extractLsb'_or])]

theorem shift (rd : RegNum) (n : Nat) : Statement (.shift rd n) := by
  refine of_row _ 11 (by decide) fun hw => ?_
  have hn : n < immLimit := hw
  constructor
  · simp only [OpRow.hits, beq_iff_eq]
    show (encode (.shift rd n)) &&& _ = _
    simp only [encode, or_and]
    rw [putRd_and (by decide) rd, putImm_and (by decide) hn]
    decide
  · show Instr.shift (fieldRd _) (fieldImm _) = _
    rw [fieldRd_eq (r := rd) (by simp [encode, extractLsb'_or]),
        fieldImm_eq hn (by simp [encode, extractLsb'_or])]

theorem mext8 (rd : RegNum) (rs2 : RegNum) : Statement (.mext8 rd rs2) := by
  refine of_row _ 12 (by decide) fun hw => ?_
  constructor
  · simp only [OpRow.hits, beq_iff_eq]
    show (encode (.mext8 rd rs2)) &&& _ = _
    simp only [encode, or_and]
    rw [putRd_and (by decide) rd, putRs2_and (by decide) rs2]
    decide
  · show Instr.mext8 (fieldRd _) (fieldRs2 _) = _
    rw [fieldRd_eq (r := rd) (by simp [encode, extractLsb'_or]),
        fieldRs2_eq (r := rs2) (by simp [encode, extractLsb'_or])]

theorem mext16 (rd : RegNum) (rs2 : RegNum) : Statement (.mext16 rd rs2) := by
  refine of_row _ 13 (by decide) fun hw => ?_
  constructor
  · simp only [OpRow.hits, beq_iff_eq]
    show (encode (.mext16 rd rs2)) &&& _ = _
    simp only [encode, or_and]
    rw [putRd_and (by decide) rd, putRs2_and (by decide) rs2]
    decide
  · show Instr.mext16 (fieldRd _) (fieldRs2 _) = _
    rw [fieldRd_eq (r := rd) (by simp [encode, extractLsb'_or]),
        fieldRs2_eq (r := rs2) (by simp [encode, extractLsb'_or])]

theorem mext32 (rd : RegNum) (rs2 : RegNum) : Statement (.mext32 rd rs2) := by
  refine of_row _ 14 (by decide) fun hw => ?_
  constructor
  · simp only [OpRow.hits, beq_iff_eq]
    show (encode (.mext32 rd rs2)) &&& _ = _
    simp only [encode, or_and]
    rw [putRd_and (by decide) rd, putRs2_and (by decide) rs2]
    decide
  · show Instr.mext32 (fieldRd _) (fieldRs2 _) = _
    rw [fieldRd_eq (r := rd) (by simp [encode, extractLsb'_or]),
        fieldRs2_eq (r := rs2) (by simp [encode, extractLsb'_or])]

theorem mext63 (rd : RegNum) (rs2 : RegNum) : Statement (.mext63 rd rs2) := by
  refine of_row _ 15 (by decide) fun hw => ?_
  constructor
  · simp only [OpRow.hits, beq_iff_eq]
    show (encode (.mext63 rd rs2)) &&& _ = _
    simp only [encode, or_and]
    rw [putRd_and (by decide) rd, putRs2_and (by decide) rs2]
    decide
  · show Instr.mext63 (fieldRd _) (fieldRs2 _) = _
    rw [fieldRd_eq (r := rd) (by simp [encode, extractLsb'_or]),
        fieldRs2_eq (r := rs2) (by simp [encode, extractLsb'_or])]

theorem sponge (rd : RegNum) (width : Nat) : Statement (.sponge rd width) := by
  refine of_row _ 16 (by decide) fun hw => ?_
  have hn : width < immLimit := hw
  constructor
  · simp only [OpRow.hits, beq_iff_eq]
    show (encode (.sponge rd width)) &&& _ = _
    simp only [encode, or_and]
    rw [putRd_and (by decide) rd, putImm_and (by decide) hn]
    decide
  · show Instr.sponge (fieldRd _) (fieldImm _) = _
    rw [fieldRd_eq (r := rd) (by simp [encode, extractLsb'_or]),
        fieldImm_eq hn (by simp [encode, extractLsb'_or])]

theorem construct (rd : RegNum) (rs2 : RegNum) (totalBits : Nat) : Statement (.construct rd rs2 totalBits) := by
  refine of_row _ 17 (by decide) fun hw => ?_
  have hn : totalBits < immLimit := hw
  constructor
  · simp only [OpRow.hits, beq_iff_eq]
    show (encode (.construct rd rs2 totalBits)) &&& _ = _
    simp only [encode, or_and]
    rw [putRd_and (by decide) rd, putRs2_and (by decide) rs2, putImm_and (by decide) hn]
    decide
  · show Instr.construct (fieldRd _) (fieldRs2 _) (fieldImm _) = _
    rw [fieldRd_eq (r := rd) (by simp [encode, extractLsb'_or]),
        fieldRs2_eq (r := rs2) (by simp [encode, extractLsb'_or]),
        fieldImm_eq hn (by simp [encode, extractLsb'_or])]

theorem slice2 (rd : RegNum) (rs1 : RegNum) : Statement (.slice2 rd rs1) := by
  refine of_row _ 18 (by decide) fun hw => ?_
  constructor
  · simp only [OpRow.hits, beq_iff_eq]
    show (encode (.slice2 rd rs1)) &&& _ = _
    simp only [encode, or_and]
    rw [putRd_and (by decide) rd, putRs1_and (by decide) rs1]
    decide
  · show Instr.slice2 (fieldRd _) (fieldRs1 _) = _
    rw [fieldRd_eq (r := rd) (by simp [encode, extractLsb'_or]),
        fieldRs1_eq (r := rs1) (by simp [encode, extractLsb'_or])]

theorem slice4 (rd : RegNum) (rs1 : RegNum) : Statement (.slice4 rd rs1) := by
  refine of_row _ 19 (by decide) fun hw => ?_
  constructor
  · simp only [OpRow.hits, beq_iff_eq]
    show (encode (.slice4 rd rs1)) &&& _ = _
    simp only [encode, or_and]
    rw [putRd_and (by decide) rd, putRs1_and (by decide) rs1]
    decide
  · show Instr.slice4 (fieldRd _) (fieldRs1 _) = _
    rw [fieldRd_eq (r := rd) (by simp [encode, extractLsb'_or]),
        fieldRs1_eq (r := rs1) (by simp [encode, extractLsb'_or])]

theorem slice8 (rd : RegNum) (rs1 : RegNum) : Statement (.slice8 rd rs1) := by
  refine of_row _ 20 (by decide) fun hw => ?_
  constructor
  · simp only [OpRow.hits, beq_iff_eq]
    show (encode (.slice8 rd rs1)) &&& _ = _
    simp only [encode, or_and]
    rw [putRd_and (by decide) rd, putRs1_and (by decide) rs1]
    decide
  · show Instr.slice8 (fieldRd _) (fieldRs1 _) = _
    rw [fieldRd_eq (r := rd) (by simp [encode, extractLsb'_or]),
        fieldRs1_eq (r := rs1) (by simp [encode, extractLsb'_or])]

theorem concat (ws : Width) (rd : RegNum) : Statement (.concat ws rd) := by
  refine of_row _ 21 (by decide) fun hw => ?_
  constructor
  · simp only [OpRow.hits, beq_iff_eq]
    show (encode (.concat ws rd)) &&& _ = _
    simp only [encode, or_and]
    rw [putWs_and (by decide) ws, putRd_and (by decide) rd]
    decide
  · show Instr.concat (fieldWs _) (fieldRd _) = _
    rw [fieldWs_eq (ws := ws) (by simp [encode, extractLsb'_or]),
        fieldRd_eq (r := rd) (by simp [encode, extractLsb'_or])]

theorem mixexp (ws : Width) (rd : RegNum) : Statement (.mixexp ws rd) := by
  refine of_row _ 22 (by decide) fun hw => ?_
  constructor
  · simp only [OpRow.hits, beq_iff_eq]
    show (encode (.mixexp ws rd)) &&& _ = _
    simp only [encode, or_and]
    rw [putWs_and (by decide) ws, putRd_and (by decide) rd]
    decide
  · show Instr.mixexp (fieldWs _) (fieldRd _) = _
    rw [fieldWs_eq (ws := ws) (by simp [encode, extractLsb'_or]),
        fieldRd_eq (r := rd) (by simp [encode, extractLsb'_or])]

theorem spread (ws : Width) (rd : RegNum) (rs2 : RegNum) : Statement (.spread ws rd rs2) := by
  refine of_row _ 23 (by decide) fun hw => ?_
  constructor
  · simp only [OpRow.hits, beq_iff_eq]
    show (encode (.spread ws rd rs2)) &&& _ = _
    simp only [encode, or_and]
    rw [putWs_and (by decide) ws, putRd_and (by decide) rd, putRs2_and (by decide) rs2]
    decide
  · show Instr.spread (fieldWs _) (fieldRd _) (fieldRs2 _) = _
    rw [fieldWs_eq (ws := ws) (by simp [encode, extractLsb'_or]),
        fieldRd_eq (r := rd) (by simp [encode, extractLsb'_or]),
        fieldRs2_eq (r := rs2) (by simp [encode, extractLsb'_or])]

theorem fseed : Statement .fseed := by
  refine of_row _ 24 (by decide) fun hw => ?_
  decide

theorem fblk (rd : RegNum) : Statement (.fblk rd) := by
  refine of_row _ 25 (by decide) fun hw => ?_
  constructor
  · simp only [OpRow.hits, beq_iff_eq]
    show (encode (.fblk rd)) &&& _ = _
    simp only [encode, or_and]
    rw [putRd_and (by decide) rd]
    decide
  · show Instr.fblk (fieldRd _) = _
    rw [fieldRd_eq (r := rd) (by simp [encode, extractLsb'_or])]

end Sys2Proof.Laws.RowMatch
end

