-- ==== Sys2Proof/Tests/Slice0.lean ====
section
/-!
SUPPORT. The model's own tests. Expected values come from the spec's worked examples and vectors (95_test_vectors.md, the
section in each comment), never from the model. Names `test_witness_…` show that the hypotheses of a statement can
be met together.
-/

namespace Sys2Proof.Tests

set_option exponentiation.threshold 1024
set_option maxRecDepth 4000

open Sys2Proof Sys2Proof.Machine Sys2Proof.Claims

/-! ### Helpers -/

/-- A word source that returns exactly these words and then is silent. -/
def words (ws : List Word) : Source := { queued := ws, after := .silent, seed := none, drawn := 0 }

/-- The reset state with some wide registers set and a word source. -/
def machine (regs : List (RegNum × Wide)) (ws : List Word) : State :=
  regs.foldl (fun s p => s.setW p.1 p.2) (State.reset.withSource (words ws))

/-- One step on the command word `cw` with `DIN = din`. -/
def one (s : State) (cw : CmdWord) (din : Word) : Out := step (presentNext { cw := cw, din := din } s)

/-- The command answers with `STATUS = 0` and `DOUT = dout`, leaves `v` in `W[rd]`, and takes all the words. -/
def gives (s : State) (cw : CmdWord) (rd : RegNum) (v : Wide) (dout : Word) (pulls : Word) : Bool :=
  match one s cw 0 with
  | .next t =>
    t.getW rd == v && t.responses == [{ status := 0, dout := dout }] && t.pulls == pulls && t.source.queued == []
  | _ => false

/-- The command raises the fault `code`, keeps `W[rd]`, pulls nothing and writes the record. -/
def raises (s : State) (cw : CmdWord) (rd : RegNum) (code : BitVec 4) : Bool :=
  match one s cw 0 with
  | .next t =>
    t.getW rd == s.getW rd && t.responses == [{ status := code, dout := 0 }] && t.pulls == 0 &&
      t.source == s.source && t.flt && t.cause == code && t.ecmd == cw
  | _ => false

/-- A property of the state after one step. -/
def after (o : Out) (p : State → Bool) : Bool :=
  match o with
  | .next t => p t
  | _ => false

/-- Several steps, each on the next event of the schedule. -/
def steps : Nat → State → Out
  | 0, s => .next s
  | n + 1, s =>
    match step s with
    | .next t => steps n t
    | o => o

/-- `V` of 95_test_vectors.md. -/
def v : Word := 0x123456789ABCDEF0
/-- `ONES` of 95_test_vectors.md. -/
def ones : Word := 0xFFFFFFFFFFFFFFFF
/-- `D` of 95_test_vectors.md. -/
def d : Word := 0xDEADBEEFCAFEF00D

/-! ### Well-formed terms (R57, R59) -/

theorem test_wf_accepts : (Instr.pext .w512 7 6 5 1023).WellFormed ∧ (Instr.trunc 1 64).WellFormed := by decide
theorem test_wf_refuses_rdcsr : ¬ (Instr.rdcsr 0 1024).WellFormed := by decide
theorem test_wf_refuses_pext : ¬ (Instr.pext .w64 0 0 0 1024).WellFormed := by decide
theorem test_wf_refuses_pdep : ¬ (Instr.pdep .w64 0 0 0 1024).WellFormed := by decide
theorem test_wf_refuses_trunc : ¬ (Instr.trunc 0 1024).WellFormed := by decide
theorem test_wf_refuses_shift : ¬ (Instr.shift 0 1024).WellFormed := by decide
theorem test_wf_refuses_sponge : ¬ (Instr.sponge 0 2048).WellFormed := by decide
theorem test_wf_refuses_construct : ¬ (Instr.construct 0 0 4096).WellFormed := by decide

/-! ### Decoding: command words of 95_test_vectors.md sections 2 to 6 -/

theorem test_decode_system :
    decode 0x00000000 = .ok .nop ∧ decode 0x00000C01 = .ok (.ldz 3) ∧ decode 0x00380C02 = .ok (.wrl 3 7) ∧
    decode 0x00386003 = .ok (.rdl 3 7) ∧ decode 0x00101004 = .ok (.rdcsr 4 2) ∧
    decode 0x00000005 = .ok .clrf := by decide
theorem test_decode_bitmath :
    decode 0x00004410 = .ok (.popcnt .w64 1 2) ∧ decode 0x00004711 = .ok (.tzcnt .w512 1 2) ∧
    decode 0x1FFA2C12 = .ok (.pext .w64 3 1 2 1023) ∧ decode 0x00122C13 = .ok (.pdep .w64 3 1 2 2) := by decide
theorem test_decode_narrower :
    decode 0x01F80420 = .ok (.trunc 1 63) ∧ decode 0x00200421 = .ok (.shift 1 4) ∧
    decode 0x00020422 = .ok (.mext8 1 2) ∧ decode 0x00020522 = .ok (.mext16 1 2) ∧
    decode 0x00020622 = .ok (.mext32 1 2) ∧ decode 0x00020722 = .ok (.mext63 1 2) ∧
    decode 0x01000423 = .ok (.sponge 1 32) ∧ decode 0x02020424 = .ok (.construct 1 2 64) := by decide
theorem test_decode_slice :
    decode 0x00004525 = .ok (.slice2 1 2) ∧ decode 0x00004625 = .ok (.slice4 1 2) ∧
    decode 0x00004725 = .ok (.slice8 1 2) := by decide
theorem test_decode_widener :
    decode 0x00000730 = .ok (.concat .w512 1) ∧ decode 0x00000631 = .ok (.mixexp .w256 1) ∧
    decode 0x00020532 = .ok (.spread .w128 1 2) := by decide
theorem test_decode_feistel : decode 0x00000038 = .ok .fseed ∧ decode 0x00000439 = .ok (.fblk 1) := by decide

/-- R64, R65: what is no command, by the name of what is wrong. -/
theorem test_decode_rejects :
    decode 0x00000006 = .error .unassignedOpcode ∧ decode 0x000000FF = .error .unassignedOpcode ∧
    decode 0x20000000 = .error .reservedBits ∧ decode 0x00004425 = .error .sliceWidthZero ∧
    decode 0x00400C02 = .error .laneTooLarge ∧ decode 0x00400003 = .error .laneTooLarge ∧
    decode 0x00000400 = .error .unusedField := by decide
/-- R57, R67: words written out from the field layout. -/
theorem test_encode_words :
    encode (.pext .w128 3 1 2 16) = 0x00822D12 ∧ encode (.wrl 3 7) = 0x00380C02 ∧
    encode (.construct 1 2 12) = 0x00620424 ∧ encode (.mext63 1 2) = 0x00020722 := by decide
theorem test_table_word :
    decodeTableWord 32 0x00004625 = some (.slice4 1 2) ∧ decodeTableWord 32 0x00004425 = none ∧
    decodeTableWord 40 0x0100000000 = none := by decide

/-! ### System commands (section 6.1) -/

theorem test_nop : gives (machine [] []) 0x00000000 0 0 0 0 = true := by decide
theorem test_ldz :
    after (one (machine [(3, 0xFF)] []) 0x00000C01 0xAABBCCDD11223344)
      (fun t => t.getW 3 == 0xAABBCCDD11223344 &&
        t.responses == [{ status := 0, dout := 0xAABBCCDD11223344 }]) = true := by decide
theorem test_wrl :
    after (one (machine [(3, 0xAABBCCDD11223344)] []) 0x00380C02 0x77)
      (fun t => laneOf (t.getW 3) 7 == 0x77 && laneOf (t.getW 3) 0 == 0xAABBCCDD11223344 &&
        t.responses == [{ status := 0, dout := 0 }]) = true := by decide
theorem test_rdl :
    gives (machine [(3, 0x77000000000000000000000000000000001)] []) 0x00106003 3
      0x77000000000000000000000000000000001 0x770 0 = true := by decide
theorem test_rdcsr_ecmd :
    gives { machine [] [] with flt := true, cause := 5, ecmd := 0x00400C02 } 0x00101004 4 0x400C02 0x400C02 0 = true := by
  decide
theorem test_rdcsr_no_such : raises (machine [(4, 0xDEAD)] []) 0x00401004 4 5 = true := by decide
theorem test_clrf :
    after (one { machine [] [] with flt := true, cause := 5, ecmd := 0x00400C02 } 0x00000005 0)
      (fun t => !t.flt && t.cause == 0 && t.ecmd == 0 && t.responses == [{ status := 0, dout := 0 }]) = true := by
  decide
/-- The row `wrl w3`, lane 8, of section 6.1. -/
theorem test_illegal_word : raises (machine [(3, 0x11)] []) 0x00400C02 3 5 = true := by decide

/-! ### BitMath (sections 2.1 to 2.4) -/

theorem test_popcnt_ignores_upper : gives (machine [(2, 0xFF0000000000000003)] []) 0x00004410 1 2 2 0 = true := by decide
theorem test_popcnt_256 :
    gives (machine [(2, 0x8000000000000000000000000000000000000000000000018000000000000000)] []) 0x00004610 1 3 3 0
      = true := by decide
theorem test_tzcnt_carries : gives (machine [(2, 0x10000000000000000)] []) 0x00004511 1 64 64 0 = true := by decide
theorem test_tzcnt_zero : gives (machine [] []) 0x00004711 1 512 512 0 = true := by decide
theorem test_pext_256 :
    gives (machine [(1, 0x8000000000000000000000000000000100000000000000000000000000000005),
      (2, 0x8000000000000000000000000000000100000000000000010000000000000007)] []) 0x00022E12 3 0x35 0x35 0 = true := by
  decide
theorem test_pext_too_wide :
    raises (machine [(1, 0x123456789ABCDEF0), (2, 0xFF), (3, 0xDEAD)] []) 0x003A2C12 3 2 = true := by decide
theorem test_pdep_256 :
    gives (machine [(1, 0x17), (2, 0x8000000000000000000000000000000100000000000000010000000000000007)] []) 0x00022E13 3
      0x100000000000000000000000000000007 7 0 = true := by decide
theorem test_pdep_zero_mask : raises (machine [(1, 5), (3, 0xDEAD)] []) 0x00022C13 3 1 = true := by decide

/-! ### Narrower (sections 3.1 to 3.6) -/

theorem test_trunc : gives (machine [(1, 0xDEAD)] [v]) 0x01000420 1 0x9ABCDEF0 0x9ABCDEF0 1 = true := by decide
theorem test_trunc_64 : raises (machine [(1, 0xDEAD)] [v]) 0x02000420 1 3 = true := by decide
theorem test_shift : gives (machine [(1, 0xDEAD)] [v]) 0x01000421 1 0x12345678 0x12345678 1 = true := by decide
theorem test_shift_0 : raises (machine [(1, 0xDEAD)] [v]) 0x00000421 1 3 = true := by decide
theorem test_mext8 : gives (machine [(2, 0xFF00)] [v]) 0x00020422 1 0xDE 0xDE 1 = true := by decide
theorem test_mext8_low_mask :
    raises (machine [(1, 0xDEAD), (2, 0x10000000000000000)] [v]) 0x00020422 1 1 = true := by decide
theorem test_mext16 : gives (machine [(2, 0xFFFF000000000000)] [v]) 0x00020522 1 0x1234 0x1234 1 = true := by decide
theorem test_mext16_too_wide : raises (machine [(2, 0x0000FFFF0000FFFF)] [v]) 0x00020522 1 2 = true := by decide
theorem test_mext32 :
    gives (machine [(2, 0xFFFFFFFF00000000)] [v]) 0x00020622 1 0x12345678 0x12345678 1 = true := by decide
theorem test_mext63 :
    gives (machine [(2, 0xFFFFFFFFFFFFFFFE)] [v]) 0x00020722 1 0x091A2B3C4D5E6F78 0x091A2B3C4D5E6F78 1 = true := by
  decide
theorem test_sponge_32 : gives (machine [] [d]) 0x01000423 1 0x14534EE2 0x14534EE2 1 = true := by decide
theorem test_sponge_4 : gives (machine [] [d]) 0x00200423 1 5 5 1 = true := by decide
theorem test_construct_order :
    gives (machine [(2, 0xF0)] [0x10, 0x20, 0x35]) 0x00620424 1 0x123 0x123 3 = true := by decide
theorem test_construct_too_wide_first : raises (machine [(2, 7)] [v]) 0x00120424 1 2 = true := by decide
theorem test_slice2 :
    gives (machine [(2, 0xFFFF123456789ABCDEF0)] []) 0x00004525 1 0x12345678000000009ABCDEF0 0x9ABCDEF0 0 = true := by
  decide
theorem test_slice4 :
    gives (machine [(2, 0xFFFF123456789ABCDEF0)] []) 0x00004625 1
      0x123400000000000056780000000000009ABC000000000000DEF0 0xDEF0 0 = true := by decide
theorem test_slice8 :
    after (one (machine [(2, 0xFFFF123456789ABCDEF0)] []) 0x00004725 0)
      (fun t => (List.range 8).map (laneOf (t.getW 1)) == [0xF0, 0xDE, 0xBC, 0x9A, 0x78, 0x56, 0x34, 0x12]) = true := by
  decide

/-! ### Widener (sections 4.1 to 4.3) -/

theorem test_concat_clears_above :
    gives (machine [(1, BitVec.allOnes 512)] [0x1111111111111111, 0x2222222222222222]) 0x00000530 1
      0x22222222222222221111111111111111 0x1111111111111111 2 = true := by decide
theorem test_mixexp_64 : gives (machine [(1, BitVec.allOnes 512)] [v]) 0x00000431 1 0x123456789ABCDEF0 v 1 = true := by
  decide
/-- The row with the stand-in `x ↦ not x`. -/
theorem test_mixexp_chain :
    after (mixExpand (fun x => ~~~x) .w256 1 (machine [] [v]))
      (fun t => (List.range 5).map (laneOf (t.getW 1)) == [v, 0xEDCBA9876543210F, v, 0xEDCBA9876543210F, 0]) = true := by
  decide
theorem test_spread_128 :
    gives (machine [(2, 0x3C000000000000000)] [0xB]) 0x00020532 1 0x2C000000000000000 0xC000000000000000 1 = true := by
  decide
theorem test_spread_65_bits :
    raises (machine [(1, 0xDEAD), (2, 0xFFFFFFFFFFFFFFFF0000000000000001)] [v]) 0x00020532 1 2 = true := by decide

/-! ### Feistel (sections 5.1 to 5.4) -/

theorem test_fseed :
    after (one (machine [] [1, 2, 3]) 0x00000038 0)
      (fun t => t.fstate == 1 && t.fkey == 2 && t.fctr == 3 && t.fidx == 0 && t.fvalid && t.pulls == 3 &&
        t.responses == [{ status := 0, dout := 0 }] && statusWord t == 2) = true := by decide
/-- The state of the stream `(1, 2, 3)` before block 0. -/
def seeded : State := { machine [] [] with fstate := 1, fkey := 2, fctr := 3, fvalid := true }
theorem test_fblk_block_0 :
    after (one seeded 0x00000439 0)
      (fun t => t.getW 1 == 0x0000800200400000 && t.fstate == 0x0000800200400000 && t.fkey == 0x104040012000808A &&
        t.fctr == 3 && t.fidx == 4) = true := by decide
/-- Block 15 of section 5.2: the block goes out before the swap. -/
theorem test_fblk_block_15 :
    after (one { seeded with fstate := 0x8880008041114041, fkey := 0x1100010182228082, fctr := 3, fidx := 60 }
        0x00000439 0)
      (fun t => t.getW 1 == 0x1100010182228082 && t.fstate == 3 && t.fctr == 0x1100010182228082 && t.fidx == 0) =
      true := by decide
theorem test_fblk_not_seeded : raises (machine [(1, 0xDEAD)] []) 0x00000439 1 6 = true := by decide
/-- The bytes of block 0 (section 5.1). -/
theorem test_block_bytes :
    blockBytes 0x0000800200400000 = [0x00, 0x00, 0x40, 0x00, 0x02, 0x80, 0x00, 0x00] := by decide

/-! ### The ports, reset and the word source -/

/-- R190, R191: from reset with nothing placed nothing happens. -/
theorem test_reset_idles : step State.reset = .next State.reset := rfl
/-- The fetched word runs as the very next step (log 1). -/
theorem test_fetch_word :
    after (step (State.reset.withFetchWord 32 0x00000439)) (fun t => t.cause == 6 && t.host == []) = true := by decide
/-- FSEED after two of its three words: outstanding, no response, the two words counted and nothing written (R198). -/
def waiting : State := { machine [(1, 5)] [] with pulls := 2, source := { words [] with drawn := 2 }, outstanding := true,
                                                  cmd := ⟨0x38, 0⟩ }
theorem test_silent_source : one (machine [(1, 5)] [1, 2]) 0x00000038 0 = .next waiting := rfl
/-- R198: time does not help, and reset is the way out. -/
theorem test_waiting_idles : step waiting = .next waiting := rfl
theorem test_waiting_reset :
    after (step (waiting.setHost [.reset]))
      (fun t => !t.outstanding && t.getW 1 == 0 && t.pulls == 0 && t.responses == [] && t.source == waiting.source) = true :=
  by decide
/-- R196, U2, U3: the host presents or seeds while the command waits. -/
theorem test_waiting_refuses :
    step (waiting.setHost [.command ⟨0, 0⟩]) = .refused .overlappedCommand ∧
    step (waiting.setHost [.seed 9 .free]) = .refused .seedDuringCommand := ⟨rfl, rfl⟩
/-- R196, U2. -/
theorem test_overlap :
    step (State.reset.setHost [.overlap ⟨0, 0⟩ ⟨0, 0⟩]) = .refused .overlappedCommand := rfl
/-- R49, U3. -/
theorem test_seed_during :
    step (State.reset.setHost [.seedDuring ⟨0, 0⟩ 7]) = .refused .seedDuringCommand := rfl
/-- R193: of three words FSEED would take, the two pulled before reset are lost. -/
theorem test_reset_during :
    after (step ((machine [(1, 5)] [1, 2, 3]).setHost [.resetDuring ⟨0x38, 0⟩ 2]))
      (fun t => t.getW 1 == 0 && !t.fvalid && t.responses == [] && t.pulls == 0 && t.source.queued == [3]) = true := by
  decide
/-- R6, R49: after `seed` the words that were known are known no more; a silent source may answer again (R194). -/
theorem test_seed_event :
    after (step ((machine [(1, 5)] [1, 2, 3]).setHost [.seed 9 .free]))
      (fun t => t.source == { queued := [], after := .free, seed := some 9, drawn := 0 } && t.getW 1 == 5) = true := by
  decide
/-- R12, R171: a fault and then a command that succeeds; `FLT` is sticky (R26). -/
theorem test_sticky_flt :
    after (steps 2 ((machine [] []).setHost [.command ⟨0x00000439, 0⟩, .command ⟨0, 0⟩]))
      (fun t => t.flt && t.cause == 6 && t.responses == [{ status := 6, dout := 0 }, { status := 0, dout := 0 }]) =
      true := by decide

/-! ### Assembly (30_encoding.md R67, R68) -/

theorem test_assemble_pext :
    assemble "pext.64 w3, w1, w2, 7 ; budget".toList = some [⟨0x003A2C12, 0⟩] := by decide
theorem test_assemble_wrl : assemble "wrl w3, 7, 0x77".toList = some [⟨0x00380C02, 0x77⟩] := by decide
theorem test_assemble_csr : assemble "rdcsr w4, ecmd".toList = some [⟨0x00101004, 0⟩] := by decide
theorem test_assemble_pull : assemble "pull w1".toList = some [⟨0x00000430, 0⟩] := by decide
/-- `ldw` with a value no wider than 64 bits (log 18). -/
theorem test_assemble_ldw : assemble "ldw w1, 0x20000000000000005".toList = some [⟨0x00000401, 5⟩, ⟨0x00080402, 2⟩] ∧
    assemble "ldw w1, 5".toList = some [⟨0x00000401, 5⟩] := by decide
theorem test_assemble_refuses : assemble "wrl w3, 8, 1".toList = none ∧ assemble "trunc.64 w1, 3".toList = none := by
  decide

/-! ### Witnesses: the hypotheses of each statement can be met together

Encoding and the step. -/

/-- DecodeOfEncodeIsTheCommand, EncodingFollowsTheFieldLayout: the largest immediate of a command with every field. -/
theorem test_witness_well_formed :
    (Instr.construct 7 7 1023).WellFormed ∧ (Instr.pdep .w512 7 7 7 1023).WellFormed ∧ Instr.nop.WellFormed := by decide
/-- EncodeOfDecodeIsTheWord, StepServesTheHostsNextEvent. -/
theorem test_witness_decodes : decode 0x1FFFFF13 = .ok (.pdep .w512 7 7 7 1023) := by decide
/-- DecodingIsMaskAndMatch: a word that hits a row. -/
theorem test_witness_hits : (opRows[8]'(by decide)).name = "PEXT" ∧ (opRows[8]'(by decide)).hits 0x00022C12 = true := by
  decide
/-- ReservedWordsMatchNoRow: one word for each of the five cases. -/
theorem test_witness_reserved :
    (0x06 % 256 ∉ assignedOps) ∧ 0x20000010 / 2 ^ 29 ≠ 0 ∧ (0x4425 % 256 = 0x25 ∧ 0x4425 / 2 ^ 8 % 4 = 0) ∧
    (0x400C02 % 256 = 0x02 ∧ 0x400C02 / 2 ^ 19 % 2 ^ 10 = 8) ∧
    (0x400003 % 256 = 0x03 ∧ 0x400003 / 2 ^ 19 % 2 ^ 10 = 8) := by decide
/-- A schedule whose first event presents a command that decodes (StepServesTheHostsNextEvent). -/
theorem test_witness_presented :
    (presentNext ⟨0x00000439, 0⟩ State.reset).host = [.command ⟨0x00000439, 0⟩] ∧
      (presentNext ⟨0x00000439, 0⟩ State.reset).outstanding = false ∧ decode 0x00000439 = .ok (.fblk 1) := by decide
/-- An empty schedule (StepServesTheHostsNextEvent). -/
theorem test_witness_idle : State.reset.host = [] ∧ waiting.host = [] := ⟨rfl, rfl⟩
/-- The other events, with no command outstanding (StepServesTheHostsNextEvent). -/
theorem test_witness_events :
    State.reset.outstanding = false ∧
    (State.reset.setHost [.seed 9 .silent]).host = [.seed 9 .silent] ∧
    (State.reset.setHost [.overlap ⟨0, 0⟩ ⟨5, 0⟩]).host = [.overlap ⟨0, 0⟩ ⟨5, 0⟩] ∧
    (State.reset.setHost [.seedDuring ⟨0x38, 0⟩ 9]).host = [.seedDuring ⟨0x38, 0⟩ 9] := by decide
/-- ResponsesAreNeverWithdrawn: a step on a command, and steps on no command. -/
theorem test_witness_answers :
    (∃ t, step (presentNext ⟨0, 0⟩ State.reset) = .next t) ∧ (∃ t, step State.reset = .next t) ∧
      ∃ t, step (State.reset.setHost [.seed 1 .silent]) = .next t := ⟨⟨_, rfl⟩, ⟨_, rfl⟩, ⟨_, rfl⟩⟩
/-- ResetEventRestoresTheResetState, StatusRegisterRule: reset next, from a state that is not the reset state. -/
theorem test_witness_reset : (seeded.setHost [.reset]).host = [.reset] ∧ seeded.fvalid = true ∧
    ∃ t, step (seeded.setHost [.reset]) = .next t := ⟨rfl, rfl, ⟨_, rfl⟩⟩
/-- ResetDuringACommandLosesItsWords: a command that decodes and pulls three words, and one that does not decode. -/
theorem test_witness_reset_during :
    (seeded.setHost [.resetDuring ⟨0x38, 0⟩ 3]).host = [.resetDuring ⟨0x38, 0⟩ 3] ∧ seeded.outstanding = false ∧ decode 0x38 = .ok .fseed ∧
      pullTable .fseed seeded = 3 ∧ decode 0x06 = .error .unassignedOpcode := by decide

/-! Faults and pulls. -/

/-- FaultTableDecidesEveryCommand, RecordHoldsTheLatestFault: each code is raised somewhere. -/
theorem test_witness_fault_table :
    faultTable (.mext8 1 2) (machine [] []) = 1 ∧ faultTable (.mext8 1 2) (machine [(2, 0x1FF)] []) = 2 ∧
    faultTable (.trunc 1 64) (machine [] []) = 3 ∧ faultTable (.rdcsr 1 8) (machine [] []) = 5 ∧
    faultTable (.fblk 1) (machine [] []) = 6 := by decide
/-- ... and no fault at the edges: `n = 1` and `n = 63`, CSR 7, a mask of exactly the target width, a seeded unit. -/
theorem test_witness_no_fault :
    faultTable (.trunc 1 1) (machine [] [v]) = 0 ∧ faultTable (.trunc 1 63) (machine [] [v]) = 0 ∧
    faultTable (.rdcsr 1 7) (machine [] []) = 0 ∧ faultTable (.mext8 1 2) (machine [(2, 0xFF)] [v]) = 0 ∧
    faultTable (.fblk 1) seeded = 0 := by decide
/-- A source that answers exactly the pulls of a command that faults on nothing. -/
theorem test_witness_answers_pulls :
    (machine [(2, 0xFFFF)] [1, 2, 3, 4]).Answers (pullTable (.construct 1 2 64) (machine [(2, 0xFFFF)] [1, 2, 3, 4])) ∧
    faultTable (.construct 1 2 64) (machine [(2, 0xFFFF)] [1, 2, 3, 4]) = 0 := ⟨Or.inr (by decide), by decide⟩
/-- SilentSourceLeavesTheCommandOutstanding, OnlyFseedAndFblkWriteTheFeistelState: a source one word short. -/
theorem test_witness_silent :
    (machine [] [1, 2]).outstanding = false ∧ faultTable .fseed (machine [] [1, 2]) = 0 ∧
      ¬ (machine [] [1, 2]).Answers 3 ∧ ¬ (machine [] [1, 2]).Answers (pullTable .fseed (machine [] [1, 2])) :=
  ⟨rfl, by decide, by rintro (h | h) <;> revert h <;> decide, by rintro (h | h) <;> revert h <;> decide⟩
/-- ... a command outstanding, with each of the next events. -/
theorem test_witness_outstanding :
    waiting.outstanding = true ∧ (∃ t, step waiting = .next t) ∧ (∃ t, step (waiting.setHost [.reset]) = .next t) ∧
      (waiting.setHost [.command ⟨0, 0⟩]).host = [.command ⟨0, 0⟩] ∧
      (waiting.setHost [.seed 9 .free]).host = [.seed 9 .free] := ⟨rfl, ⟨_, rfl⟩, ⟨_, rfl⟩, rfl, rfl⟩
/-- ResponsesAreNeverWithdrawn, PullsFollowTheTable: a step that leaves its command outstanding. -/
theorem test_witness_stalls : ∃ t, step (presentNext ⟨0x38, 0⟩ (machine [] [1, 2])) = .next t ∧ t.outstanding = true :=
  ⟨_, rfl, rfl⟩
/-- A word that does not decode, presented (FaultTableDecidesEveryCommand, StatusRegisterRule). -/
theorem test_witness_illegal :
    (presentNext ⟨0x00004425, 0⟩ State.reset).host = [.command ⟨0x00004425, 0⟩] ∧
      (presentNext ⟨0x00004425, 0⟩ State.reset).outstanding = false ∧
      decode 0x00004425 = .error .sliceWidthZero ∧ ∃ t, step (presentNext ⟨0x00004425, 0⟩ State.reset) = .next t :=
  ⟨rfl, rfl, by decide, ⟨_, rfl⟩⟩
/-- FaultingCommandChangesOnlyTheRecord: an answer with a code other than 0. -/
theorem test_witness_fault_answer :
    ∃ t, exec (.fblk 1) State.reset = .next t ∧ Responded 6 0 State.reset t ∧ (6 : BitVec 4) ≠ 0 :=
  ⟨_, rfl, rfl, by decide⟩
/-- ConstructChecksInOrder, first check: no set bit in the low word, whatever `t` is. -/
theorem test_witness_construct_p0 : countSet ((machine [(2, 0x10000000000000000)] []).getW 2) 64 = 0 := by decide
/-- ConstructChecksInOrder: masks of 3, 1 and 4 bits for the second, third and fourth check, of 1 bit for the last. -/
theorem test_witness_construct_checks :
    (countSet ((machine [(2, 7)] []).getW 2) 64 = 3 ∧ 3 > 2) ∧
    (countSet ((machine [(2, 1)] []).getW 2) 64 = 1 ∧ 65 > 64 ∧ ¬ 1 > 65) ∧
    (countSet ((machine [(2, 15)] []).getW 2) 64 = 4 ∧ 6 % 4 ≠ 0 ∧ ¬ 4 > 6 ∧ ¬ 6 > 64) ∧
    (countSet ((machine [(2, 15)] []).getW 2) 64 = 4 ∧ 64 % 4 = 0 ∧ ¬ 4 > 64 ∧ ¬ 64 > 64) := by decide
/-- A fresh source answers any number of pulls (ConstructChecksInOrder, FaultTableDecidesEveryCommand). -/
theorem test_witness_free_source : State.reset.Answers 64 := Or.inl rfl

/-! Whole-machine rules. -/

/-- PullsFollowTheTable, DataOutFollowsTheRule, OnlyTheDestinationIsWritten, ResultsAreZeroAboveTheirWidth,
OnlyFseedAndFblkWriteTheFeistelState, StatusRegisterRule: commands of each kind that answer without a fault. -/
theorem test_witness_completes :
    (∃ t, exec (.slice4 1 2) State.reset = .next t) ∧ (∃ t, exec (.rdl 1 7) State.reset = .next t) ∧
    (∃ t, exec (.wrl 1 7) State.reset = .next t) ∧ (∃ t, exec .clrf State.reset = .next t) ∧
    (∃ t, exec .fseed State.reset = .next t) ∧ (∃ t, exec (.fblk 1) seeded = .next t) ∧
    (∃ t d, exec (.concat .w512 1) State.reset = .next t ∧ Responded 0 d State.reset t) ∧
    destination (.concat .w512 1) = some 1 ∧ State.reset.Answers 3 :=
  ⟨⟨_, rfl⟩, ⟨_, rfl⟩, ⟨_, rfl⟩, ⟨_, rfl⟩, ⟨_, rfl⟩, ⟨_, rfl⟩, ⟨_, _, rfl, rfl⟩, rfl, Or.inl rfl⟩
/-- StatusRegisterRule: a step that clears a set `FLT`. RecordHoldsTheLatestFault: a next state with `CAUSE = 4`. -/
theorem test_witness_record :
    (∃ t, step (presentNext ⟨5, 0⟩ (State.reset.setRecord true 5 6)) = .next t ∧ t.flt = false) ∧
    (State.reset.setRecord true 5 6).flt = true ∧
    ∃ t, exec .nop (State.reset.setRecord true 4 6) = .next t ∧ t.cause = 4 :=
  ⟨⟨_, rfl, rfl⟩, rfl, ⟨_, rfl, rfl⟩⟩
/-- A register that is not the destination, and the first bit above a result. -/
theorem test_witness_not_destination :
    destination (.slice4 1 2) ≠ some 2 ∧ resultBits (.slice4 1 2) ≤ 208 ∧ resultBits (.popcnt .w64 1 2) ≤ 64 := by decide
/-- DinOnlyMattersToLdzAndWrl: every other command meets the hypotheses, FBLK for one. -/
theorem test_witness_din :
    (∀ rd, Instr.fblk 1 ≠ .ldz rd) ∧ (∀ rd lane, Instr.fblk 1 ≠ .wrl rd lane) :=
  ⟨fun _ => by simp, fun _ _ => by simp⟩
/-- A state that differs from `seeded` in the bits of `W2` above 64, in `W5`, in the record, `PULLS`, the Feistel state
and a queued word (ResultsDependOnOperandsAndPulledWords). -/
def elsewhere : State :=
  { ((seeded.setW 2 0xFF0000000000000000).setW 5 7).setRecord true 5 1 with pulls := 9, fkey := 4, source := words [1] }
/-- ResultsDependOnOperandsAndPulledWords. -/
theorem test_witness_same_operands :
    OperandsAgree (.popcnt .w64 1 2) seeded elsewhere ∧ elsewhere.cmd.din = seeded.cmd.din ∧ elsewhere ≠ seeded ∧
      upcoming (pullTable (.popcnt .w64 1 2) seeded) elsewhere.source =
        upcoming (pullTable (.popcnt .w64 1 2) seeded) seeded.source ∧
      (∀ rd n, Instr.popcnt .w64 1 2 ≠ .rdcsr rd n) ∧ (∀ rd, Instr.popcnt .w64 1 2 ≠ .fblk rd) ∧
      ∃ t d, exec (.popcnt .w64 1 2) seeded = .next t ∧ Responded 0 d seeded t :=
  ⟨by unfold OperandsAgree; decide, by decide, by decide, by decide, fun _ _ => by simp, fun _ => by simp,
    ⟨_, _, rfl, rfl⟩⟩
/-- ... and a command that pulls: the sources differ behind the word pulled. -/
theorem test_witness_same_words :
    upcoming (pullTable (.trunc 1 8) (machine [] [v])) (words [v, d]) =
      upcoming (pullTable (.trunc 1 8) (machine [] [v])) (words [v]) ∧ words [v, d] ≠ words [v] := by decide
/-- BlocksDependOnTheFeistelStateAlone: two states that differ in a register. -/
theorem test_witness_same_stream :
    seeded.fvalid = true ∧ FeistelKept seeded (seeded.setW 3 5) ∧ (∃ t, exec (.fblk 1) seeded = .next t) :=
  ⟨rfl, ⟨rfl, rfl, rfl, rfl, rfl⟩, ⟨_, rfl⟩⟩
/-- StepKeepsTheInvariant: a state with a seeded stream and a fault on record, about to run FBLK. -/
def recorded : State :=
  presentNext ⟨0x00000439, 0⟩
    { seeded with fidx := 60, flt := true, cause := 5, ecmd := 6, responses := [{ status := 5, dout := 0 }] }
theorem test_witness_invariant : recorded.Inv ∧ ∃ t, step recorded = .next t := by
  refine ⟨⟨by decide, by decide, by decide, fun h => absurd h (by decide), fun h => absurd h (by decide),
    fun h => absurd h (by decide), ?_⟩, ⟨_, rfl⟩⟩
  intro r hr
  rw [List.mem_singleton.1 hr]
  exact ⟨by decide, fun _ => rfl⟩
/-- ... and a command outstanding on a silent source. -/
theorem test_witness_waiting_invariant : waiting.Inv :=
  ⟨by decide, by decide, by decide, fun _ => rfl, fun _ => by decide, fun _ => by decide, fun r h => by cases h⟩
/-- The invariant says something: a cursor off the slices, an illegal cause, or a command outstanding on a source that
answers, breaks it. -/
theorem test_invariant_refuses : ¬ ({ State.reset with fidx := 3 } : State).Inv ∧
    ¬ ({ State.reset with cause := 4 } : State).Inv ∧ ¬ ({ State.reset with outstanding := true } : State).Inv :=
  ⟨fun h => absurd h.cursor (by decide), fun h => absurd h.cause (by decide),
    fun h => absurd (h.waiting rfl).2 (by decide)⟩

/-! Functions and commands. -/

/-- TrailingZerosChainAcrossWords: a value whose first word is zero and whose second is not. -/
theorem test_witness_chain :
    (0x10000000000000000 : BitVec (64 * 2)) ≠ 0 ∧
    (0x10000000000000000 : BitVec (64 * 2)).extractLsb' (64 * 1) 64 ≠ 0 ∧
    (0x10000000000000000 : BitVec (64 * 2)).extractLsb' (64 * 0) 64 = 0 := by decide
/-- ExtractGathersUnderTheMask, ScatterEqualsItsScanningForm: a set and a clear position, equal streams below the count,
values equal under the mask. -/
theorem test_witness_positions :
    (0xA : Word).getLsbD 3 = true ∧ (0xA : Word).getLsbD 2 = false ∧ countSet (0xA : Word) 64 = 2 ∧
    (∀ j, j < 2 → (0xF : Word).getLsbD j = (0x3 : Word).getLsbD j) ∧ (0xB : Word) &&& 0xA = 0xE &&& 0xA := by decide
/-- RdcsrReadsTheRegisterTable: the numbers on both sides of the bound. -/
theorem test_witness_csr_bound : 7 ≤ 7 ∧ 7 < 8 := by decide
/-- PextGathersOrFaults, PdepScattersOrFaults, SpreadScattersAPulledWord: an empty mask, a budget one short, a budget that
is just enough, and no budget. -/
theorem test_witness_mask_checks :
    countSet ((machine [(2, 0x10000000000000000)] []).getW 2) (widthOf .w64) = 0 ∧
    countSet ((machine [(2, 0xFF)] []).getW 2) (widthOf .w64) = 8 ∧ (7 ≠ 0 ∧ 7 < 8) ∧ 8 ≤ 8 := by decide
/-- SpreadScattersAPulledWord: masks of 64 and of 65 bits at width 128. -/
theorem test_witness_spread :
    countSet ((machine [(2, 0xFFFFFFFFFFFFFFFF0000000000000000)] []).getW 2) (widthOf .w128) = 64 ∧
    countSet ((machine [(2, 0xFFFFFFFFFFFFFFFF0000000000000001)] []).getW 2) (widthOf .w128) = 65 := by decide
/-- TruncTakesTheLowBits, ShiftTakesTheHighBits, MextGathersFromAPulledWord, SpongeFoldsEveryBitIn,
MixexpChainsTheMixingFunction, SpreadScattersAPulledWord: one word coming; and the counts at their bounds. -/
theorem test_witness_one_word :
    upcoming 1 (machine [] [v]).source = [v] ∧ (1 ≤ 1 ∧ 1 ≤ 63) ∧ (1 ≤ 63 ∧ 63 ≤ 63) ∧ 0 < 1 ∧ 63 < 64 := by decide
/-- A fresh source, too, has a word coming. -/
theorem test_witness_free_word : ∃ x, upcoming 1 State.reset.source = [x] := ⟨_, rfl⟩
/-- MextGathersFromAPulledWord: masks of 0, 63 and 64 bits against the target width 63. -/
theorem test_witness_mext :
    countSet ((machine [] []).getW 2) 64 = 0 ∧ countSet ((machine [(2, 0xFFFFFFFFFFFFFFFE)] []).getW 2) 64 = 63 ∧
    countSet ((machine [(2, 0xFFFFFFFFFFFFFFFF)] []).getW 2) 64 = 64 ∧
    (Instr.mext63 1 2, 63) ∈ [(Instr.mext8 1 2, 8), (.mext16 1 2, 16), (.mext32 1 2, 32), (.mext63 1 2, 63)] := by decide
/-- FoldXorsTheHalves: the least and the greatest width. -/
theorem test_witness_fold : 0 ≤ 32 ∧ 32 ≤ 32 := by decide
/-- SpongeFoldsEveryBitIn: accepted and refused widths. -/
theorem test_witness_sponge : 1 ∈ [1, 2, 4, 8, 16, 32] ∧ 32 ∈ [1, 2, 4, 8, 16, 32] ∧ 64 ∉ [1, 2, 4, 8, 16, 32] ∧
    0 ∉ [1, 2, 4, 8, 16, 32] := by decide
/-- ConstructAccumulatesItsRounds: four rounds of 16 bits, and one round of 64. -/
theorem test_witness_construct_rounds :
    (constructTable 64 ((machine [(2, 0xFFFF)] [1, 2, 3, 4]).getW 2) = 0 ∧
      64 / countSet ((machine [(2, 0xFFFF)] [1, 2, 3, 4]).getW 2) 64 = 4 ∧
      upcoming 4 (machine [(2, 0xFFFF)] [1, 2, 3, 4]).source = [1, 2, 3, 4]) ∧
    constructTable 64 ((machine [(2, 0xFFFFFFFFFFFFFFFF)] [v]).getW 2) = 0 := by decide
/-- ConstructRoundTrip: three rounds of four bits, the second word. -/
theorem test_witness_round_trip :
    countSet (0xF0 : Word) 64 = 4 ∧ [(0x10 : Word), 0x20, 0x35].length * 4 ≤ 64 ∧
      [(0x10 : Word), 0x20, 0x35][1]? = some 0x20 := by decide
/-- SliceCutsLowWordFirst. -/
theorem test_witness_slice :
    (Instr.slice8 1 2, 8) ∈ [(Instr.slice2 1 2, 2), (.slice4 1 2, 4), (.slice8 1 2, 8)] := by decide
/-- ConcatPutsTheFirstWordLowest: two words for width 128. -/
theorem test_witness_concat : upcoming (widthOf .w128 / 64) (machine [] [v, d]).source = [v, d] ∧
    [v, d].length = widthOf .w128 / 64 := by decide
/-- FseedTakesThreeWordsInOrder. -/
theorem test_witness_fseed : upcoming 3 (machine [] [1, 2, 3]).source = [1, 2, 3] := by decide
/-- FblkEmitsTheNextBlock, BlockStructureHoldsForEveryRoundFunction: a seeded and an unseeded unit. -/
theorem test_witness_seeded : seeded.fvalid = true ∧ State.reset.fvalid = false := by decide
/-- ZeroStateEmitsZeroBlocks: the cursor before and at the swap. -/
theorem test_witness_zero_state :
    ({ seeded with fstate := 0, fkey := 0, fidx := 56 } : State).fidx ≠ 60 ∧
    ({ seeded with fstate := 0, fkey := 0, fidx := 60 } : State).fidx = 60 := by decide
/-- StreamBytesAreLeastSignificantFirst: the last byte of the second block. -/
theorem test_witness_stream : [v, d][1]? = some d ∧ 7 < 8 := by decide

end Sys2Proof.Tests
end

/-!
PROOFS. The tables of the statements' vocabulary agree with the checks and the pulls of the model (R171, R199), and
`exec_cases` said in their words.
-/

namespace Sys2Proof.Claims

open Sys2Proof.Machine

/-! ### Counts of set bits -/

theorem countSet_eq_countBelow {n : Nat} (v : BitVec n) (i : Nat) : countSet v i = countBelow v i := by
  induction i with
  | zero => rfl
  | succ i ih =>
    have hstep : countSet v (i + 1) = countSet v i + (v.getLsbD i).toNat := by
      cases h : v.getLsbD i <;> simp [countSet, List.range_succ, h]
    rw [hstep, ih, countBelow]

/-- The bits below the operating width are those of the whole register. -/
theorem countBelow_setWidth {m n i : Nat} (v : BitVec m) (h : i ≤ n) :
    countBelow (v.setWidth n) i = countBelow v i := by
  induction i with
  | zero => rfl
  | succ i ih =>
    have hi : i < n := h
    simp [countBelow, ih (Nat.le_of_lt h), hi]

theorem popcount_setWidth {m : Nat} (v : BitVec m) (n : Nat) : popcount (v.setWidth n) = countSet v n := by
  rw [popcount, countBelow_setWidth v (Nat.le_refl n), countSet_eq_countBelow]

theorem popcount_eq_zero_iff {n : Nat} (m : BitVec n) : popcount m = 0 ↔ m = 0 := by
  have hclear : popcount m = 0 ↔ ∀ k < n, m.getLsbD k = false := by
    simp [popcount, ← countSet_eq_countBelow, countSet]
  rw [hclear]
  constructor
  · intro h
    apply BitVec.eq_of_getLsbD_eq
    intro k hk
    simp [h k hk]
  · rintro rfl k _
    exact BitVec.getLsbD_zero

theorem widthOf_eq_opBits (ws : Width) : widthOf ws = opBits ws := by cases ws <;> rfl

/-! ### The fault table of R171 -/

/-- The number R171's table has for what a command's checks found: the fault's code, 0 for none. -/
def statusOf : Option CmdFault → BitVec 4
  | some f => faultCode f
  | none => 0

theorem faultCode_ne_zero (f : CmdFault) : faultCode f ≠ 0 := by cases f <;> decide

theorem maskTable_eq_statusOf (n b : Nat) (v : Wide) : maskTable n b v = statusOf (maskFault (v.setWidth n) b) := by
  simp only [maskTable, ← popcount_setWidth, popcount_eq_zero_iff]
  obtain ⟨h, hf⟩ | ⟨h, hb, hf⟩ | ⟨h, hb, hf⟩ := maskFault_cases (v.setWidth n) b
  · rw [hf, if_pos h]; rfl
  · rw [hf, if_neg h, if_pos hb]; rfl
  · rw [hf, if_neg h, if_neg (Nat.not_lt.2 hb)]; rfl

theorem maskTable_widthOf (ws : Width) (b : Nat) (r : RegNum) (s : State) :
    maskTable (widthOf ws) b (s.getW r) = statusOf (maskFault (readAt ws r s) b) := by
  rw [maskTable_eq_statusOf, widthOf_eq_opBits]; rfl

theorem maskTable_budget (ws : Width) (b : Nat) (r : RegNum) (s : State) :
    maskTable (widthOf ws) (if b = 0 then widthOf ws else b) (s.getW r) =
      statusOf (maskFault (readAt ws r s) (budgetOf ws b)) := by
  rw [maskTable_widthOf, widthOf_eq_opBits]; rfl

theorem constructTable_eq_statusOf (t : Nat) (v : Wide) :
    constructTable t v = statusOf (constructFault (v.setWidth 64) t) := by
  simp only [constructTable, ← popcount_setWidth, popcount_eq_zero_iff]
  obtain ⟨h, hf⟩ | ⟨h, hp, hf⟩ | ⟨h, hp, ht, hf⟩ | ⟨h, hp, ht, hd, hf⟩ | ⟨h, hp, ht, hd, hf⟩ :=
    constructFault_cases (v.setWidth 64) t
  · rw [hf, if_pos h]; rfl
  · rw [hf, if_neg h, if_pos hp]; rfl
  · rw [hf, if_neg h, if_neg (Nat.not_lt.2 hp), if_pos ht]; rfl
  · rw [hf, if_neg h, if_neg (Nat.not_lt.2 hp), if_neg (Nat.not_lt.2 ht), if_pos hd]; rfl
  · rw [hf, if_neg h, if_neg (Nat.not_lt.2 hp), if_neg (Nat.not_lt.2 ht), if_neg (not_not.2 hd)]; rfl

theorem countTable_eq_statusOf (n : Nat) : (if n = 0 ∨ n ≥ 64 then 3 else 0) = statusOf (countFault n) := by
  obtain ⟨h, hf⟩ | ⟨h1, h63, hf⟩ := countFault_cases n
  · rw [hf, if_pos (by omega)]; rfl
  · rw [hf, if_neg (by omega)]; rfl

theorem spongeTable_eq_statusOf (w : Nat) :
    (if w = 1 ∨ w = 2 ∨ w = 4 ∨ w = 8 ∨ w = 16 ∨ w = 32 then 0 else 3) = statusOf (spongeFault w) := by
  obtain ⟨h, hf⟩ | ⟨h, hf⟩ := spongeFault_cases w
  · rw [hf, if_pos (by simpa [spongeWidths] using h)]; rfl
  · rw [hf, if_neg (by simpa [spongeWidths] using h)]; rfl

/-- The table of R171 has the code of the fault the command's checks find. -/
theorem faultTable_eq_statusOf (i : Instr) (s : State) : faultTable i s = statusOf (commandFault i s) := by
  match i with
  | .nop | .ldz _ | .wrl _ _ | .rdl _ _ | .clrf => rfl
  | .popcnt _ _ _ | .tzcnt _ _ _ => rfl
  | .slice2 _ _ | .slice4 _ _ | .slice8 _ _ | .concat _ _ | .mixexp _ _ | .fseed => rfl
  | .rdcsr _ csr => by_cases h : 7 < csr <;> simp [faultTable, commandFault, statusOf, faultCode, h]
  | .pext ws _ _ rs2 b | .pdep ws _ _ rs2 b => exact maskTable_budget ws b rs2 s
  | .spread ws _ rs2 => exact maskTable_widthOf ws 64 rs2 s
  | .trunc _ n | .shift _ n => exact countTable_eq_statusOf n
  | .mext8 _ rs2 | .mext16 _ rs2 | .mext32 _ rs2 | .mext63 _ rs2 => exact maskTable_eq_statusOf 64 _ (s.getW rs2)
  | .sponge _ w => exact spongeTable_eq_statusOf w
  | .construct _ rs2 t => exact constructTable_eq_statusOf t (s.getW rs2)
  | .fblk _ => cases h : s.fvalid <;> simp [faultTable, commandFault, statusOf, faultCode, h]

/-! ### The pull table of R199 -/

theorem pullTable_of_fault {i : Instr} {s : State} (h : faultTable i s ≠ 0) : pullTable i s = 0 := if_pos h

theorem pullTable_of_success {i : Instr} {s : State} (h : faultTable i s = 0) :
    pullTable i s = pullsOnSuccess i s := by
  refine (if_neg (not_not.2 h)).trans ?_
  cases i with
  | construct rd rs2 t => exact congrArg (t / ·) (popcount_setWidth (s.getW rs2) 64).symm
  | concat ws rd => exact congrArg (· / 64) (widthOf_eq_opBits ws)
  | _ => rfl

/-! ### What `exec` can do, by the tables -/

/-- `exec_cases` in the words of the statements: the command takes the fault of R171's table, completes with the words of
R199's table, or waits for one of them. -/
theorem exec_outcome (i : Instr) (s : State) :
    (∃ f, faultTable i s = faultCode f ∧ pullTable i s = 0 ∧ exec i s = .next (takeFault f s)) ∨
    (faultTable i s = 0 ∧ s.Answers (pullTable i s) ∧
      exec i s = .next (effect i s (upcoming (pullTable i s) s.source) (afterPulls (pullTable i s) s))) ∨
    (faultTable i s = 0 ∧ ¬ s.Answers (pullTable i s) ∧ exec i s = .next (stalled (pullTable i s) s)) := by
  have hcode := faultTable_eq_statusOf i s
  obtain ⟨f, hf, he⟩ | ⟨hf, ha, he⟩ | ⟨hf, ha, he⟩ := exec_cases i s <;> rw [hf] at hcode
  · exact .inl ⟨f, hcode, pullTable_of_fault (hcode.trans_ne (faultCode_ne_zero f)), he⟩
  · rw [pullTable_of_success hcode]
    exact .inr (.inl ⟨hcode, ha, he⟩)
  · rw [pullTable_of_success hcode]
    exact .inr (.inr ⟨hcode, ha, he⟩)

/-! ### What a command leaves unchanged -/

@[simp] theorem advanceCursor_outstanding (sk : Word × Word) (s : State) :
    (advanceCursor sk s).outstanding = s.outstanding := by
  unfold advanceCursor; split <;> rfl

@[simp] theorem advanceCursor_fvalid (sk : Word × Word) (s : State) : (advanceCursor sk s).fvalid = s.fvalid := by
  unfold advanceCursor; split <;> rfl

/-- Completing leaves the flag of R198 alone; only a stall sets it. -/
theorem effect_outstanding (i : Instr) (s : State) (xs : List Word) (s1 : State) :
    (effect i s xs s1).outstanding = s1.outstanding := by
  cases i with
  | fblk rd => exact advanceCursor_outstanding _ s1
  | _ => rfl

/-- Only FSEED and FBLK write the Feistel state (R30, R31). -/
theorem effect_feistelKept {i : Instr} (hseed : i ≠ .fseed) (hblk : ∀ rd, i ≠ .fblk rd) (s : State) (xs : List Word)
    (s1 : State) : FeistelKept s1 (effect i s xs s1) := by
  cases i with
  | fseed => exact absurd rfl hseed
  | fblk rd => exact absurd rfl (hblk rd)
  | _ => exact ⟨rfl, rfl, rfl, rfl, rfl⟩

/-- Only FSEED writes `fvalid` (R31). -/
theorem effect_fvalid {i : Instr} (hseed : i ≠ .fseed) (s : State) (xs : List Word) (s1 : State) :
    (effect i s xs s1).fvalid = s1.fvalid := by
  cases i with
  | fseed => exact absurd rfl hseed
  | fblk rd => exact advanceCursor_fvalid _ s1
  | _ => rfl

theorem takeFault_feistelKept (f : CmdFault) (s : State) : FeistelKept s (takeFault f s) :=
  ⟨rfl, rfl, rfl, rfl, rfl⟩

/-- A command without the words it needs waits, and writes nothing (R198). -/
theorem stalled_waiting (n : Nat) (s : State) : Waiting n s (stalled n s) where
  outstanding := rfl
  responses := rfl
  registers _ := rfl
  feistel := ⟨rfl, rfl, rfl, rfl, rfl⟩
  record := ⟨rfl, rfl, rfl⟩
  source := rfl
  pulls := rfl
  cmd := rfl
  host := rfl

/-! ### The step, by the host's next event -/

theorem step_of_no_event {s : State} (h : s.host = []) : step s = .next s := by
  simp [step, nextEvent, h]

theorem step_of_event {s : State} {e : HostEvent} {es : List HostEvent} (ho : s.outstanding = false)
    (h : s.host = e :: es) : step s = serve e (s.setHost es) := by
  simp [step, nextEvent, h, ho]

theorem step_of_event_outstanding {s : State} {e : HostEvent} {es : List HostEvent} (ho : s.outstanding = true)
    (h : s.host = e :: es) : step s = serveOutstanding e (s.setHost es) := by
  simp [step, nextEvent, h, ho]

/-- Reset leaves the architectural state of R20 at its reset values (R191). -/
theorem resetState_atReset (s : State) : AtReset (resetState s) where
  registers q := State.reset_getW q
  fstate := rfl
  fkey := rfl
  fctr := rfl
  fidx := rfl
  fvalid := rfl
  flt := rfl
  cause := rfl
  ecmd := rfl
  pulls := rfl
  outstanding := rfl

/-- The only event served while a command is outstanding is reset (R193, R198). -/
theorem serveOutstanding_next {e : HostEvent} {s t : State} (h : serveOutstanding e s = .next t) :
    e = .reset ∧ t = resetState s := by
  cases e with
  | reset => exact ⟨rfl, (Host.Outcome.next.inj h).symm⟩
  | _ => cases h

/-- While a command is outstanding a step changes nothing or is reset (R193, R198). -/
theorem step_outstanding_next {s t : State} (ho : s.outstanding = true) (h : step s = .next t) :
    (s.host = [] ∧ t = s) ∨ ((∃ es, s.host = .reset :: es) ∧ AtReset t ∧ t.responses = s.responses) := by
  cases hh : s.host with
  | nil =>
    rw [step_of_no_event hh] at h
    exact .inl ⟨rfl, (Host.Outcome.next.inj h).symm⟩
  | cons e es =>
    rw [step_of_event_outstanding ho hh] at h
    obtain ⟨rfl, rfl⟩ := serveOutstanding_next h
    exact .inr ⟨⟨es, rfl⟩, resetState_atReset _, rfl⟩

/-- From a state with no command outstanding, every command has a next state, and waits in it exactly when its checks
pass and the source falls short. -/
theorem exec_outstanding_iff (i : Instr) (s : State) (ho : s.outstanding = false) :
    ∃ t, exec i s = .next t ∧ (t.outstanding = true ↔ faultTable i s = 0 ∧ ¬ s.Answers (pullTable i s)) := by
  obtain ⟨f, hf, -, he⟩ | ⟨hf, ha, he⟩ | ⟨hf, ha, he⟩ := exec_outcome i s <;> refine ⟨_, he, ?_⟩
  · exact ⟨fun h => absurd (ho.symm.trans h) Bool.false_ne_true,
      fun ⟨hpass, _⟩ => absurd (hf.symm.trans hpass) (faultCode_ne_zero f)⟩
  · have hs : (afterPulls (pullTable i s) s).outstanding = false := ho
    simp [effect_outstanding, hs, ha]
  · simp [stalled, hf, ha]

theorem exec_waiting {i : Instr} {s : State} (hf : faultTable i s = 0) (ha : ¬ s.Answers (pullTable i s)) :
    exec i s = .next (stalled (pullTable i s) s) := by
  obtain ⟨f, hc, -, -⟩ | ⟨-, ha', -⟩ | ⟨-, -, he⟩ := exec_outcome i s
  · exact absurd (hc.symm.trans hf) (faultCode_ne_zero f)
  · exact absurd ha' ha
  · exact he

/-! ### The obligations -/

/-- Settles O15, by the three ways a command can end and the events served while one is outstanding. -/
theorem silentSourceLeavesTheCommandOutstanding : Obligations.SilentSourceLeavesTheCommandOutstanding := by
  refine ⟨exec_outstanding_iff, ?_, fun s t => step_outstanding_next, ?_, ?_⟩
  · intro i s hf ha
    exact ⟨_, exec_waiting hf ha, stalled_waiting _ s⟩
  · intro s c es ho h
    exact step_of_event_outstanding ho h
  · intro s value after es ho h
    exact step_of_event_outstanding ho h

/-- Settles O20, by the three ways a command can end. -/
theorem onlyFseedAndFblkWriteTheFeistelState : Obligations.OnlyFseedAndFblkWriteTheFeistelState := by
  intro i s t h
  obtain ⟨f, hf, -, he⟩ | ⟨hf, ha, he⟩ | ⟨hf, ha, he⟩ := exec_outcome i s <;>
    obtain rfl := Host.Outcome.next.inj (h.symm.trans he)
  · refine ⟨fun _ _ => takeFault_feistelKept f s, fun _ => rfl, ?_, fun _ _ => takeFault_feistelKept f s⟩
    rintro rfl
    exact absurd hf.symm (faultCode_ne_zero f)
  · refine ⟨fun hseed hblk => effect_feistelKept hseed hblk s _ _, fun hseed => effect_fvalid hseed s _ _, ?_, ?_⟩
    · rintro rfl _
      rfl
    · rintro rfl hshort
      exact absurd ha hshort
  · have hkept := (stalled_waiting (pullTable i s) s).feistel
    refine ⟨fun _ _ => hkept, fun _ => rfl, ?_, fun _ _ => hkept⟩
    rintro rfl hanswers
    exact absurd hanswers ha

/-- Settles O7, by the event at the head of the host's schedule. -/
theorem stepServesTheHostsNextEvent : Obligations.StepServesTheHostsNextEvent := by
  refine ⟨?command, ?seed, ?overlap, ?seedDuring, fun s => step_of_no_event⟩
  case command =>
    intro s c es i ho h hd
    rw [step_of_event ho h]
    simp [serve, runCommand, hd, State.present, State.setHost]
  case seed =>
    intro s value after es ho h
    exact ⟨_, step_of_event ho h, rfl, rfl, fun _ => rfl, ⟨rfl, rfl, rfl, rfl, rfl⟩, ⟨rfl, rfl, rfl⟩, rfl, rfl, rfl, ho⟩
  case overlap =>
    intro s c d es h
    cases ho : s.outstanding
    · exact step_of_event ho h
    · exact step_of_event_outstanding ho h
  case seedDuring =>
    intro s c value es ho h
    exact step_of_event ho h

end Sys2Proof.Claims

/-!
PROOFS. The statements about the state (10_state.md): what completing a command changes (`effect_completed`), what a
command does to the fault record, the step by the host's events, and the invariant.
-/

namespace Sys2Proof.Claims

open Sys2Proof.Machine

/-! ### Responses and pulls -/

theorem responded_unique {c c' : BitVec 4} {d d' : Word} {s t : State} (h : Responded c d s t)
    (h' : Responded c' d' s t) : c = c' ∧ d = d' := by
  have hlast := List.append_cancel_left (h.symm.trans h')
  exact Response.mk.inj (List.cons.inj hlast).1

/-- A response is never nothing (R55). -/
theorem not_responded_of_kept {c : BitVec 4} {d : Word} {s t : State} (h : t.responses = s.responses) :
    ¬ Responded c d s t := fun hr => by simp [Responded, h] at hr

theorem faultTable_eq_zero_iff (i : Instr) (s : State) : faultTable i s = 0 ↔ commandFault i s = none := by
  rw [faultTable_eq_statusOf]
  cases commandFault i s with
  | none => exact iff_of_true rfl rfl
  | some f => exact iff_of_false (faultCode_ne_zero f) (Option.some_ne_none f)

/-- No command pulls more than 64 words (R199). -/
theorem pullTable_le (i : Instr) (s : State) : pullTable i s ≤ 64 := by
  by_cases hf : faultTable i s = 0
  · rw [pullTable_of_success hf]
    cases i with
    | construct rd rs2 t =>
      have hnone : constructFault (readLow rs2 s) t = none := (faultTable_eq_zero_iff _ s).1 hf
      obtain ⟨-, h⟩ | ⟨-, -, h⟩ | ⟨-, -, -, h⟩ | ⟨-, -, -, -, h⟩ | ⟨-, -, ht, -, -⟩ :=
        constructFault_cases (readLow rs2 s) t
      case inr.inr.inr.inr => exact (Nat.div_le_self _ _).trans ht
      all_goals exact absurd (h.symm.trans hnone) (Option.some_ne_none _)
    | concat ws rd => cases ws <;> simp [pullsOnSuccess, opWords, opBits]
    | _ => simp [pullsOnSuccess]
  · simp [pullTable_of_fault hf]

/-- A source that does not answer `n` pulls is empty and silent once the words that came are gone (R198). -/
theorem dropWords_silent {n : Nat} {s : State} (h : ¬ s.Answers n) :
    (dropWords n s.source).queued = [] ∧ (dropWords n s.source).after = .silent := by
  unfold State.Answers at h
  generalize s.source = src at h
  induction n generalizing src with
  | zero => simp at h
  | succ n ih =>
    cases hn : sourceNext src with
    | none =>
      have hsilent := (not_congr (sourceNext_isSome_iff src)).1 (by simp [hn])
      obtain ⟨hafter, hqueued⟩ := not_or.1 hsilent
      rw [dropWords, hn]
      refine ⟨by simpa using hqueued, ?_⟩
      cases ha : src.after with
      | free => exact absurd ha hafter
      | silent => rfl
    | some p =>
      obtain ⟨x, src1⟩ := p
      obtain ⟨hafter, -, -, hqueued⟩ := sourceNext_rest hn
      rw [dropWords_succ hn]
      obtain ⟨hnotFree, hshort⟩ := not_or.1 h
      have hone := ((sourceNext_isSome_iff src).1 (by simp [hn])).resolve_left hnotFree
      refine ih src1 (not_or.2 ⟨hafter ▸ hnotFree, ?_⟩)
      rw [hqueued, List.length_drop]
      omega

/-! ### The shared operations, in the words of the statements -/

theorem writeResult_getW_other {s : State} {rd q : RegNum} (v : Wide) (h : q ≠ rd) :
    (writeResult rd v s).getW q = s.getW q := State.setW_getW_other s v h

theorem writeResult_wrote (rd : RegNum) (v : Wide) (s : State) : Wrote rd 0 s (writeResult rd v s) where
  others _ := writeResult_getW_other v
  response := by simp [Responded]
  feistel := ⟨rfl, rfl, rfl, rfl, rfl⟩
  record := ⟨rfl, rfl, rfl⟩
  pulled := by simp [Pulled]
  port := ⟨rfl, rfl, rfl⟩

theorem takeFault_faulted (f : CmdFault) (s : State) : Faulted (faultCode f) s (takeFault f s) where
  response := rfl
  flt := rfl
  cause := rfl
  ecmd := rfl
  registers _ := rfl
  feistel := takeFault_feistelKept f s
  pulled := by simp [Pulled]
  port := ⟨rfl, rfl, rfl⟩

/-- The cursor moves in the Feistel state alone (R133). -/
theorem advanceCursor_eq_setFeistel (sk : Word × Word) (s : State) :
    ∃ a b c d, advanceCursor sk s = s.setFeistel a b c d := by
  unfold advanceCursor
  split <;> exact ⟨_, _, _, _, rfl⟩

theorem advanceCursor_responses (sk : Word × Word) (s : State) : (advanceCursor sk s).responses = s.responses := by
  obtain ⟨a, b, c, d, h⟩ := advanceCursor_eq_setFeistel sk s
  rw [h, State.setFeistel_responses]

/-- The cursor moves by 4 modulo 64 (R133). -/
theorem advanceCursor_fidx (sk : Word × Word) (s : State) : (advanceCursor sk s).fidx = s.fidx + 4 := by
  unfold advanceCursor
  split
  case isTrue h => exact h.symm
  case isFalse => rfl

/-! ### What completing a command changes -/

/-- What the completion of the command `i` leaves of the state `s1` after its pulls, whatever `i` is: one response with
status 0, and no change but in the destination, the Feistel state and, for CLRF, the record. -/
structure Completed (i : Instr) (s1 t : State) : Prop where
  registers : ∀ q, destination i ≠ some q → t.getW q = s1.getW q
  response : ∃ d, Responded 0 d s1 t
  record : i ≠ .clrf → RecordKept s1 t
  pulls : t.pulls = s1.pulls
  source : t.source = s1.source
  port : PortKept s1 t

theorem writeResult_completed {i : Instr} {rd : RegNum} (hd : destination i = some rd) (v : Wide) (s1 : State) :
    Completed i s1 (writeResult rd v s1) where
  registers _ hq := writeResult_getW_other v fun h => hq (h ▸ hd)
  response := ⟨_, rfl⟩
  record _ := ⟨rfl, rfl, rfl⟩
  pulls := rfl
  source := rfl
  port := ⟨rfl, rfl, rfl⟩

theorem completed_of_advanceCursor {i : Instr} {sk : Word × Word} {s1 t : State}
    (h : Completed i (advanceCursor sk s1) t) : Completed i s1 t := by
  obtain ⟨a, b, c, d, hadv⟩ := advanceCursor_eq_setFeistel sk s1
  rw [hadv] at h
  exact ⟨h.registers, h.response, h.record, h.pulls, h.source, h.port⟩

theorem effect_completed (i : Instr) (s : State) (xs : List Word) (s1 : State) :
    Completed i s1 (effect i s xs s1) := by
  cases i with
  | nop | rdl rs1 lane | fseed =>
    exact ⟨fun _ _ => rfl, ⟨_, rfl⟩, fun _ => ⟨rfl, rfl, rfl⟩, rfl, rfl, rfl, rfl, rfl⟩
  | clrf => exact ⟨fun _ _ => rfl, ⟨_, rfl⟩, fun h => absurd rfl h, rfl, rfl, rfl, rfl, rfl⟩
  | wrl rd lane =>
    exact ⟨fun q hq => State.setW_getW_other s1 _ fun h => hq (h ▸ rfl), ⟨_, rfl⟩, fun _ => ⟨rfl, rfl, rfl⟩,
      rfl, rfl, rfl, rfl, rfl⟩
  | fblk rd => exact completed_of_advanceCursor (writeResult_completed rfl _ _)
  | _ => exact writeResult_completed rfl _ s1

/-! ### The fault record (R26 to R28) -/

/-- Everything a command can do to the fault record: its fault goes there, CLRF clears it, nothing else touches it. -/
theorem exec_record {i : Instr} {s t : State} (h : exec i s = .next t) :
    (∃ f, faultTable i s = faultCode f ∧ t.flt = true ∧ t.cause = faultCode f ∧ t.ecmd = s.cmd.cw) ∨
    (faultTable i s = 0 ∧ i = .clrf ∧ t.flt = false ∧ t.cause = 0 ∧ t.ecmd = 0) ∨
    (faultTable i s = 0 ∧ i ≠ .clrf ∧ RecordKept s t) := by
  obtain ⟨f, hf, -, he⟩ | ⟨hf, ha, he⟩ | ⟨hf, ha, he⟩ := exec_outcome i s <;>
    obtain rfl := Host.Outcome.next.inj (h.symm.trans he)
  · exact .inl ⟨f, hf, rfl, rfl, rfl⟩
  · by_cases hi : i = .clrf
    · subst hi
      exact .inr (.inl ⟨hf, rfl, rfl, rfl, rfl⟩)
    · exact .inr (.inr ⟨hf, hi, (effect_completed i s _ (afterPulls (pullTable i s) s)).record hi⟩)
  · refine .inr (.inr ⟨hf, ?_, (stalled_waiting _ s).record⟩)
    rintro rfl
    exact ha (answers_zero s)

/-- The code 4 is never raised (R27, R167). -/
theorem faultCode_ne_four (f : CmdFault) : faultCode f ≠ 4 := by cases f <;> decide

/-- Bit 0 of `STATUS` is `FLT`, bit 1 `FVALID`, and the others are zero (R26). -/
theorem statusWord_bits (s : State) :
    (statusWord s).getLsbD 0 = s.flt ∧ (statusWord s).getLsbD 1 = s.fvalid ∧
      ∀ k, 2 ≤ k → (statusWord s).getLsbD k = false := by
  have hsmall : (statusWord s).toNat < 2 ^ 2 := by
    unfold statusWord; cases s.flt <;> cases s.fvalid <;> decide
  refine ⟨?_, ?_, fun k hk => Nat.testBit_lt_two_pow (hsmall.trans_le (Nat.pow_le_pow_right (by decide) hk))⟩ <;>
    (unfold statusWord; cases s.flt <;> cases s.fvalid <;> decide)

/-! ### The step, by what it served -/

/-- Everything a presented command can do: it is executed, or its word is no command. -/
theorem runCommand_next {c : Command} {s t : State} (h : runCommand c s = .next t) :
    (∃ i, decode c.cw = .ok i ∧ exec i (s.present c) = .next t) ∨
    (∃ e, decode c.cw = .error e ∧ t = takeFault .illegalCommand (s.present c)) := by
  unfold runCommand at h
  cases hd : decode c.cw with
  | ok i => exact .inl ⟨i, rfl, by simpa [hd] using h⟩
  | error e =>
    rw [hd] at h
    exact .inr ⟨e, rfl, (Host.Outcome.next.inj h).symm⟩

/-- Everything an event of the host can do when no command is outstanding. -/
theorem serve_next {e : HostEvent} {s t : State} (h : serve e s = .next t) :
    (∃ c, e = .command c ∧ runCommand c s = .next t) ∨
    (e = .reset ∧ t = resetState s) ∨
    (∃ c k, e = .resetDuring c k ∧ t = abandon c k s) ∨
    (∃ value after, e = .seed value after ∧ t = s.withSource (seedSource value after s.source)) := by
  cases e with
  | command c => exact .inl ⟨c, rfl, h⟩
  | reset => exact .inr (.inl ⟨rfl, (Host.Outcome.next.inj h).symm⟩)
  | resetDuring c k => exact .inr (.inr (.inl ⟨c, k, rfl, (Host.Outcome.next.inj h).symm⟩))
  | seed value after => exact .inr (.inr (.inr ⟨value, after, rfl, (Host.Outcome.next.inj h).symm⟩))
  | overlap c d => cases h
  | seedDuring c value => cases h

/-- Everything a step can do: nothing, serve an event with no command outstanding, or reset a waiting command. -/
theorem step_next {s t : State} (h : step s = .next t) :
    (s.host = [] ∧ t = s) ∨
    (∃ e es, s.host = e :: es ∧ s.outstanding = false ∧ serve e (s.setHost es) = .next t) ∨
    (∃ es, s.host = .reset :: es ∧ s.outstanding = true ∧ t = resetState (s.setHost es)) := by
  cases hh : s.host with
  | nil => exact .inl ⟨rfl, Host.Outcome.next.inj (h.symm.trans (step_of_no_event hh))⟩
  | cons e es =>
    cases ho : s.outstanding with
    | false => exact .inr (.inl ⟨e, es, rfl, rfl, (step_of_event ho hh).symm.trans h⟩)
    | true =>
      obtain ⟨rfl, ht⟩ := serveOutstanding_next ((step_of_event_outstanding ho hh).symm.trans h)
      exact .inr (.inr ⟨es, rfl, rfl, ht⟩)

/-! ### The invariant, by the pieces of the state -/

/-- The clauses of the invariant about the Feistel state (R30, R31). -/
def FeistelOk (s : State) : Prop :=
  s.fidx.toNat % 4 = 0 ∧ (s.fvalid = false → s.fstate = 0 ∧ s.fkey = 0 ∧ s.fctr = 0 ∧ s.fidx = 0)

/-- The clauses of the invariant about the fault record (R26 to R28). -/
def RecordOk (s : State) : Prop :=
  s.cause ∈ legalCodes ∧ (s.flt = true ↔ s.cause ≠ 0) ∧ (s.flt = false → s.ecmd = 0)

/-- The clause of the invariant about the command port (R198). -/
def WaitOk (s : State) : Prop := s.outstanding = true → s.source.queued = [] ∧ s.source.after = .silent

/-- The clause of the invariant about the responses (R167, R170). -/
def ResponsesOk (s : State) : Prop := ∀ r ∈ s.responses, r.Legal

theorem inv_iff (s : State) : s.Inv ↔ FeistelOk s ∧ RecordOk s ∧ WaitOk s ∧ ResponsesOk s :=
  ⟨fun ⟨hcursor, hcause, hflag, hrecord, hunseeded, hwait, hresp⟩ =>
      ⟨⟨hcursor, hunseeded⟩, ⟨hcause, hflag, hrecord⟩, hwait, hresp⟩,
    fun ⟨⟨hcursor, hunseeded⟩, ⟨hcause, hflag, hrecord⟩, hwait, hresp⟩ =>
      ⟨hcursor, hcause, hflag, hrecord, hunseeded, hwait, hresp⟩⟩

theorem feistelOk_of_kept {s t : State} (hk : FeistelKept s t) (h : FeistelOk s) : FeistelOk t := by
  obtain ⟨hstate, hkey, hctr, hidx, hvalid⟩ := hk
  rwa [FeistelOk, hstate, hkey, hctr, hidx, hvalid]

theorem recordOk_of_kept {s t : State} (hk : RecordKept s t) (h : RecordOk s) : RecordOk t := by
  obtain ⟨hflt, hcause, hecmd⟩ := hk
  rwa [RecordOk, hflt, hcause, hecmd]

theorem waitOk_of_idle {s : State} (h : s.outstanding = false) : WaitOk s :=
  fun ho => absurd (h.symm.trans ho) Bool.false_ne_true

theorem responsesOk_of_responded {c : BitVec 4} {d : Word} {s t : State} (h : Responded c d s t)
    (hlegal : Response.Legal ⟨c, d⟩) (hs : ResponsesOk s) : ResponsesOk t := by
  intro r hr
  rw [h, List.mem_append, List.mem_singleton] at hr
  obtain hr | rfl := hr
  · exact hs r hr
  · exact hlegal

theorem faultCode_legal (f : CmdFault) : faultCode f ∈ legalCodes := by cases f <;> decide

theorem success_legal (d : Word) : Response.Legal ⟨0, d⟩ := ⟨List.mem_cons_self, fun h => absurd rfl h⟩

/-- A fault leaves a record that names it (R170). -/
theorem takeFault_inv (f : CmdFault) {s : State} (h : s.Inv) : (takeFault f s).Inv := by
  obtain ⟨hfeistel, -, hwait, hresp⟩ := (inv_iff s).1 h
  refine (inv_iff _).2 ⟨feistelOk_of_kept (takeFault_feistelKept f s) hfeistel, ?_, hwait, ?_⟩
  · exact ⟨faultCode_legal f, ⟨fun _ => faultCode_ne_zero f, fun _ => rfl⟩, fun hflt => Bool.noConfusion hflt⟩
  · exact responsesOk_of_responded (takeFault_faulted f s).response ⟨faultCode_legal f, fun _ => rfl⟩ hresp

/-- A command waits on a source that has gone silent (R198). -/
theorem stalled_inv {n : Nat} {s : State} (ha : ¬ s.Answers n) (h : s.Inv) : (stalled n s).Inv := by
  obtain ⟨hfeistel, hrecord, -, hresp⟩ := (inv_iff s).1 h
  have hw := stalled_waiting n s
  exact (inv_iff _).2 ⟨feistelOk_of_kept hw.feistel hfeistel, recordOk_of_kept hw.record hrecord,
    fun _ => dropWords_silent ha, hresp⟩

/-- Reset gives every clause of the invariant but the one about the responses already returned (R191). -/
theorem resetState_inv {s : State} (h : ResponsesOk s) : (resetState s).Inv := by
  have hr := resetState_atReset s
  refine (inv_iff _).2 ⟨⟨?_, fun _ => ⟨hr.fstate, hr.fkey, hr.fctr, hr.fidx⟩⟩,
    ⟨?_, ?_, fun _ => hr.ecmd⟩, waitOk_of_idle hr.outstanding, h⟩
  · simp [hr.fidx]
  · rw [hr.cause]; decide
  · simp [hr.flt, hr.cause]

/-- A change of the host's schedule, of the command port, or of the source under no outstanding command keeps the
invariant. -/
theorem inv_of_kept {s t : State} (h : s.Inv) (hf : FeistelKept s t) (hr : RecordKept s t) (hw : WaitOk t)
    (hresp : t.responses = s.responses) : t.Inv := by
  obtain ⟨hfeistel, hrecord, -, hs⟩ := (inv_iff s).1 h
  exact (inv_iff t).2 ⟨feistelOk_of_kept hf hfeistel, recordOk_of_kept hr hrecord, hw, by rwa [ResponsesOk, hresp]⟩

theorem setHost_inv {s : State} (es : List HostEvent) (h : s.Inv) : (s.setHost es).Inv :=
  inv_of_kept h ⟨rfl, rfl, rfl, rfl, rfl⟩ ⟨rfl, rfl, rfl⟩ h.waiting rfl

theorem present_inv {s : State} (c : Command) (h : s.Inv) : (s.present c).Inv :=
  inv_of_kept h ⟨rfl, rfl, rfl, rfl, rfl⟩ ⟨rfl, rfl, rfl⟩ h.waiting rfl

theorem withSource_inv {s : State} (src : Source) (ho : s.outstanding = false) (h : s.Inv) :
    (s.withSource src).Inv :=
  inv_of_kept h ⟨rfl, rfl, rfl, rfl, rfl⟩ ⟨rfl, rfl, rfl⟩ (waitOk_of_idle ho) rfl

/-- A command that passed its checks keeps the cursor on a slice and writes no Feistel state before the first FSEED:
FSEED sets `fvalid`, and FBLK has found it set. -/
theorem effect_feistelOk {i : Instr} {s : State} (hf : faultTable i s = 0) (xs : List Word) (n : Nat)
    (h : FeistelOk s) : FeistelOk (effect i s xs (afterPulls n s)) := by
  cases i with
  | fseed => exact ⟨rfl, fun hv => Bool.noConfusion hv⟩
  | fblk rd =>
    have hvalid : s.fvalid = true := by simpa [faultTable] using hf
    have hkept : (effect (.fblk rd) s xs (afterPulls n s)).fvalid = true :=
      (effect_fvalid Instr.noConfusion s xs _).trans hvalid
    have hcursor : (effect (.fblk rd) s xs (afterPulls n s)).fidx = s.fidx + 4 := advanceCursor_fidx _ _
    refine ⟨?_, fun hv => absurd (hkept.symm.trans hv) Bool.noConfusion⟩
    have hslice := h.1
    rw [hcursor, BitVec.toNat_add, show (4 : BitVec 6).toNat = 4 from rfl]
    omega
  | _ => exact feistelOk_of_kept (effect_feistelKept Instr.noConfusion (fun _ => Instr.noConfusion) s xs _) h

/-- A command keeps the invariant, from a state with no command outstanding. -/
theorem exec_inv {i : Instr} {s t : State} (ho : s.outstanding = false) (hs : s.Inv) (h : exec i s = .next t) :
    t.Inv := by
  obtain ⟨f, -, -, he⟩ | ⟨hf, -, he⟩ | ⟨-, ha, he⟩ := exec_outcome i s
  · obtain rfl := Host.Outcome.next.inj (h.symm.trans he)
    exact takeFault_inv f hs
  · obtain ⟨hfeistel, hrecord, -, hresp⟩ := (inv_iff s).1 hs
    have hrec : RecordOk t := by
      obtain ⟨f, hf', -⟩ | ⟨-, -, hflt, hcause, hecmd⟩ | ⟨-, -, hkept⟩ := exec_record h
      · exact absurd (hf'.symm.trans hf) (faultCode_ne_zero f)
      · rw [RecordOk, hflt, hcause, hecmd]; decide
      · exact recordOk_of_kept hkept hrecord
    obtain rfl := Host.Outcome.next.inj (h.symm.trans he)
    obtain ⟨d, hd⟩ := (effect_completed i s (upcoming (pullTable i s) s.source) (afterPulls (pullTable i s) s)).response
    exact (inv_iff _).2 ⟨effect_feistelOk hf _ _ hfeistel, hrec, waitOk_of_idle ((effect_outstanding i s _ _).trans ho),
      responsesOk_of_responded hd (success_legal d) hresp⟩
  · obtain rfl := Host.Outcome.next.inj (h.symm.trans he)
    exact stalled_inv ha hs

theorem serve_inv {e : HostEvent} {s t : State} (ho : s.outstanding = false) (hs : s.Inv)
    (h : serve e s = .next t) : t.Inv := by
  obtain ⟨c, -, hc⟩ | ⟨-, rfl⟩ | ⟨c, k, -, rfl⟩ | ⟨value, after, -, rfl⟩ := serve_next h
  · obtain ⟨i, -, hi⟩ | ⟨e, -, rfl⟩ := runCommand_next hc
    · exact exec_inv (s := s.present c) ho (present_inv c hs) hi
    · exact takeFault_inv _ (present_inv c hs)
  · exact resetState_inv hs.responses
  · exact resetState_inv hs.responses
  · exact withSource_inv _ ho hs

/-! ### Results, and the zeros above them (R21) -/

/-- Every bit of `v` from position `n` on is zero. -/
def ZeroAbove {k : Nat} (n : Nat) (v : BitVec k) : Prop := ∀ j, n ≤ j → v.getLsbD j = false

theorem zeroAbove_of_le {n k : Nat} (h : n ≤ k) (v : BitVec n) : ZeroAbove k v :=
  fun j hj => BitVec.getLsbD_of_ge v j (h.trans hj)

theorem zeroAbove_setWidth {m n k : Nat} {v : BitVec n} (h : ZeroAbove k v) : ZeroAbove k (v.setWidth m) := by
  intro j hj
  simp [h j hj]

theorem zeroAbove_word (x : Word) : ZeroAbove 64 (x.setWidth 512) := zeroAbove_setWidth (zeroAbove_of_le le_rfl x)

theorem zeroAbove_extractLsb'_zero {n k : Nat} {v : BitVec n} (h : ZeroAbove k v) (w : Nat) :
    ZeroAbove k (v.extractLsb' 0 w) := by
  intro j hj
  simp [h j hj]

theorem zeroAbove_ofNat {m k : Nat} (h : m ≤ k) : ZeroAbove k (BitVec.ofNat 512 m) := by
  intro j hj
  have hbit : m.testBit j = false := Nat.testBit_lt_two_pow ((h.trans hj).trans_lt Nat.lt_two_pow_self)
  simp [BitVec.getLsbD_ofNat, hbit]

theorem popcount_le {n : Nat} (v : BitVec n) : popcount v ≤ n := by
  rw [popcount, ← countSet_eq_countBelow]
  exact (List.length_filter_le _ _).trans_eq List.length_range

theorem tzScan_le (x : Word) (left i : Nat) : tzScan x left i ≤ i + left := by
  induction left generalizing i with
  | zero => exact le_rfl
  | succ left ih =>
    unfold tzScan
    split
    · omega
    · exact (ih (i + 1)).trans (by omega)

theorem tz64_le (x : Word) : tz64 x ≤ 64 := (tzScan_le x 64 0).trans_eq (Nat.zero_add 64)

theorem tzWords_le {n : Nat} (v : BitVec n) (left j : Nat) : tzWords v left j ≤ 64 * (j + left) := by
  induction left generalizing j with
  | zero => exact le_rfl
  | succ left ih =>
    unfold tzWords
    split
    · have := tz64_le (laneOf v j)
      omega
    · exact (ih (j + 1)).trans (by omega)

theorem tz_le {n : Nat} (v : BitVec n) : tz v ≤ n := by
  have hscan : tz v ≤ 64 * (0 + n / 64) := tzWords_le v (n / 64) 0
  omega

theorem zeroAbove_packLanes_cons {n : Nat} (x : Word) {xs : List Word} (h : ZeroAbove n (packLanes xs)) :
    ZeroAbove (64 + n) (packLanes (x :: xs)) := by
  intro j hj
  have hx : x.getLsbD j = false := BitVec.getLsbD_of_ge x j (by omega)
  have hxs : (packLanes xs).getLsbD (j - 64) = false := h _ (by omega)
  simp [packLanes, hx, hxs]

theorem zeroAbove_packLanes_singleton {n : Nat} {x : Word} (h : ZeroAbove n x) : ZeroAbove n (packLanes [x]) := by
  intro j hj
  simp [packLanes, h j hj]

theorem zeroAbove_packLanes (xs : List Word) : ZeroAbove (64 * xs.length) (packLanes xs) := by
  induction xs with
  | nil => exact fun j _ => BitVec.getLsbD_zero
  | cons x xs ih =>
    rw [List.length_cons, Nat.mul_succ, Nat.add_comm]
    exact zeroAbove_packLanes_cons x ih

/-- The last of `k + 1` parts fills the low `width` bits of lane `k` (R106). -/
theorem zeroAbove_packLanes_parts (x : Word) (width k i : Nat) :
    ZeroAbove (64 * k + width) (packLanes (parts x width (k + 1) i)) := by
  induction k generalizing i with
  | zero =>
    rw [Nat.mul_zero, Nat.zero_add]
    exact zeroAbove_packLanes_singleton (zeroAbove_setWidth (zeroAbove_of_le le_rfl _))
  | succ k ih =>
    rw [Nat.mul_succ, Nat.add_comm _ 64, Nat.add_assoc]
    exact zeroAbove_packLanes_cons _ (ih (i + 1))

theorem length_mixChain (mix : Word → Word) (x : Word) (n : Nat) : (mixChain mix x n).length = n := by
  induction n generalizing x with
  | zero => rfl
  | succ n ih => simp [mixChain, ih]

theorem zeroAbove_packLanes_words {ws : Width} {xs : List Word} (h : xs.length = opWords ws) :
    ZeroAbove (widthOf ws) (packLanes xs) := by
  have hwords : 64 * xs.length = widthOf ws := by rw [h]; cases ws <;> rfl
  exact hwords ▸ zeroAbove_packLanes xs

theorem zeroAbove_writeResult {n : Nat} {r rd : RegNum} {v : Wide} (hd : some r = some rd) (hv : ZeroAbove n v)
    (s : State) : ZeroAbove n ((writeResult r v s).getW rd) := by
  cases hd
  rwa [writeResult_getW_same]

/-- The result of a command that completes with the words it needs, WRL apart, is zero above its width. -/
theorem effect_zeroAbove {i : Instr} {rd : RegNum} (hd : destination i = some rd) (hwrl : ∀ lane, i ≠ .wrl rd lane)
    {s : State} {xs : List Word} (hxs : xs.length = pullsOnSuccess i s) (s1 : State) :
    ZeroAbove (resultBits i) ((effect i s xs s1).getW rd) := by
  have hwidth (ws : Width) : opBits ws ≤ widthOf ws := (widthOf_eq_opBits ws).ge
  cases i with
  | nop | rdl rs1 lane | clrf | fseed => cases hd
  | wrl r lane =>
    cases hd
    exact absurd rfl (hwrl lane)
  | popcnt ws r rs1 => exact zeroAbove_writeResult hd (zeroAbove_ofNat ((popcount_le _).trans (hwidth ws))) s1
  | tzcnt ws r rs1 => exact zeroAbove_writeResult hd (zeroAbove_ofNat ((tz_le _).trans (hwidth ws))) s1
  | pext ws r rs1 rs2 b | pdep ws r rs1 rs2 b | spread ws r rs2 =>
    exact zeroAbove_writeResult hd (zeroAbove_setWidth (zeroAbove_of_le (hwidth ws) _)) s1
  | slice2 r rs1 => exact zeroAbove_writeResult hd (zeroAbove_packLanes_parts (readLow rs1 s) 32 1 0) s1
  | slice4 r rs1 => exact zeroAbove_writeResult hd (zeroAbove_packLanes_parts (readLow rs1 s) 16 3 0) s1
  | slice8 r rs1 => exact zeroAbove_writeResult hd (zeroAbove_packLanes_parts (readLow rs1 s) 8 7 0) s1
  | concat ws r => exact zeroAbove_writeResult hd (zeroAbove_packLanes_words hxs) s1
  | mixexp ws r => exact zeroAbove_writeResult hd (zeroAbove_packLanes_words (length_mixChain _ _ _)) s1
  | trunc r n =>
    exact zeroAbove_writeResult hd
      (zeroAbove_setWidth (zeroAbove_extractLsb'_zero (zeroAbove_of_le le_rfl (xs.getD 0 0)) n)) s1
  | _ => exact zeroAbove_writeResult hd (zeroAbove_word _) _

/-! ### Two states with the same operands (R22) -/

section

variable {i : Instr} {s u : State} (ha : OperandsAgree i s u)

include ha

theorem readAt_eq_of_operand {ws : Width} {r : RegNum} (h : (r, widthOf ws) ∈ operands i) :
    readAt ws r u = readAt ws r s := by
  have hbits : (u.getW r).setWidth (widthOf ws) = (s.getW r).setWidth (widthOf ws) := ha _ h
  rwa [widthOf_eq_opBits] at hbits

theorem readLow_eq_of_operand {r : RegNum} (h : (r, 64) ∈ operands i) : readLow r u = readLow r s := ha _ h

theorem getW_eq_of_operand {r : RegNum} (h : (r, 512) ∈ operands i) : u.getW r = s.getW r := by
  have hbits : (u.getW r).setWidth 512 = (s.getW r).setWidth 512 := ha _ h
  rwa [BitVec.setWidth_eq, BitVec.setWidth_eq] at hbits

theorem readLane_eq_of_operand {r : RegNum} {lane : LaneNum} (h : (r, 64 * lane.val + 64) ∈ operands i) :
    readLane r lane u = readLane r lane s := by
  have hbits := ha _ h
  apply BitVec.eq_of_getLsbD_eq
  intro j hj
  have hbit := congrArg (fun v => v.getLsbD (64 * lane.val + j)) hbits
  have hin : 64 * lane.val + j < 64 * lane.val + 64 := by omega
  simpa [readLane, laneOf, hj, hin] using hbit

theorem commandFault_eq_of_operands (hblk : ∀ rd, i ≠ .fblk rd) : commandFault i u = commandFault i s := by
  cases i with
  | fblk rd => exact absurd rfl (hblk rd)
  | pext ws rd rs1 rs2 b | pdep ws rd rs1 rs2 b | spread ws rd rs2 =>
    rw [commandFault, commandFault, readAt_eq_of_operand ha (ws := ws) (r := rs2) (by simp [operands])]
  | mext8 rd rs2 | mext16 rd rs2 | mext32 rd rs2 | mext63 rd rs2 | construct rd rs2 t =>
    rw [commandFault, commandFault, readLow_eq_of_operand ha (r := rs2) (by simp [operands])]
  | _ => rfl

theorem pullsOnSuccess_eq_of_operands : pullsOnSuccess i u = pullsOnSuccess i s := by
  cases i with
  | construct rd rs2 t =>
    rw [pullsOnSuccess, pullsOnSuccess, readLow_eq_of_operand ha (r := rs2) (by simp [operands])]
  | _ => rfl

theorem faultTable_eq_of_operands (hblk : ∀ rd, i ≠ .fblk rd) : faultTable i u = faultTable i s := by
  rw [faultTable_eq_statusOf, faultTable_eq_statusOf, commandFault_eq_of_operands ha hblk]

theorem pullTable_eq_of_operands (hblk : ∀ rd, i ≠ .fblk rd) : pullTable i u = pullTable i s := by
  have hf := faultTable_eq_of_operands ha hblk
  by_cases h : faultTable i s = 0
  · rw [pullTable_of_success h, pullTable_of_success (hf.trans h), pullsOnSuccess_eq_of_operands ha]
  · rw [pullTable_of_fault h, pullTable_of_fault (hf.trans_ne h)]

/-- What a command computes rests on its operands, `DIN` and the words pulled; only RDCSR and FBLK read more. -/
theorem effect_eq_of_operands (hcsr : ∀ rd n, i ≠ .rdcsr rd n) (hblk : ∀ rd, i ≠ .fblk rd)
    (hdin : u.cmd.din = s.cmd.din) (xs : List Word) (s1 : State) : effect i u xs s1 = effect i s xs s1 := by
  cases i with
  | rdcsr rd n => exact absurd rfl (hcsr rd n)
  | fblk rd => exact absurd rfl (hblk rd)
  | ldz rd => rw [effect, effect, hdin]
  | wrl rd lane => rw [effect, effect, hdin, getW_eq_of_operand ha (r := rd) (by simp [operands])]
  | rdl rs1 lane => rw [effect, effect, readLane_eq_of_operand ha (r := rs1) (lane := lane) (by simp [operands])]
  | popcnt ws rd rs1 | tzcnt ws rd rs1 =>
    rw [effect, effect, readAt_eq_of_operand ha (ws := ws) (r := rs1) (by simp [operands])]
  | pext ws rd rs1 rs2 b | pdep ws rd rs1 rs2 b =>
    rw [effect, effect, readAt_eq_of_operand ha (ws := ws) (r := rs1) (by simp [operands]),
      readAt_eq_of_operand ha (ws := ws) (r := rs2) (by simp [operands])]
  | spread ws rd rs2 => rw [effect, effect, readAt_eq_of_operand ha (ws := ws) (r := rs2) (by simp [operands])]
  | mext8 rd rs2 | mext16 rd rs2 | mext32 rd rs2 | mext63 rd rs2 | construct rd rs2 t =>
    rw [effect, effect, readLow_eq_of_operand ha (r := rs2) (by simp [operands])]
  | slice2 rd rs1 | slice4 rd rs1 | slice8 rd rs1 =>
    rw [effect, effect, readLow_eq_of_operand ha (r := rs1) (by simp [operands])]
  | _ => rfl

end

/-- Two completions answer alike: the same response, the same value in the destination and, for FSEED, the same Feistel
state. -/
structure SameAnswer (i : Instr) (s t u v : State) : Prop where
  response : ∃ d, Responded 0 d s t ∧ Responded 0 d u v
  destination : ∀ rd, destination i = some rd → v.getW rd = t.getW rd
  feistel : i = .fseed → FeistelKept t v

theorem writeResult_sameAnswer {i : Instr} {rd : RegNum} (hd : destination i = some rd) (hi : i ≠ .fseed) (v : Wide)
    {s1 s2 u1 u2 : State} (hs : s2.responses = s1.responses) (hu : u2.responses = u1.responses) :
    SameAnswer i s1 (writeResult rd v s2) u1 (writeResult rd v u2) where
  response := ⟨v.setWidth 64, by simp [Responded, hs], by simp [Responded, hu]⟩
  destination r hr := by
    obtain rfl := Option.some.inj (hd.symm.trans hr)
    rw [writeResult_getW_same, writeResult_getW_same]
  feistel h := absurd h hi

/-- The answer does not rest on what the pulls leave of the state. -/
theorem effect_sameAnswer (i : Instr) (s : State) (xs : List Word) (s1 u1 : State) :
    SameAnswer i s1 (effect i s xs s1) u1 (effect i s xs u1) := by
  cases i with
  | nop | clrf | rdl rs1 lane => exact ⟨⟨_, rfl, rfl⟩, (fun _ h => nomatch h), (fun h => nomatch h)⟩
  | fseed => exact ⟨⟨_, rfl, rfl⟩, (fun _ h => nomatch h), fun _ => ⟨rfl, rfl, rfl, rfl, rfl⟩⟩
  | wrl rd lane =>
    refine ⟨⟨0, rfl, rfl⟩, fun r hr => ?_, (fun h => nomatch h)⟩
    cases hr
    simp [effect]
  | fblk rd =>
    exact writeResult_sameAnswer rfl Instr.noConfusion _ (advanceCursor_responses _ s1) (advanceCursor_responses _ u1)
  | _ => exact writeResult_sameAnswer rfl Instr.noConfusion _ rfl rfl

/-! ### Reset, and RDCSR's table of registers -/

theorem reset_atReset : AtReset State.reset :=
  ⟨State.reset_getW, rfl, rfl, rfl, rfl, rfl, rfl, rfl, rfl, rfl, rfl⟩

theorem statusWord_toNat (s : State) : (statusWord s).toNat = s.flt.toNat + 2 * s.fvalid.toNat := by
  unfold statusWord
  cases s.flt <;> cases s.fvalid <;> decide

/-- The model's read values are those of R25's table. -/
theorem csrValue_eq_csrTable {n : Nat} (h : n ≤ 7) (s : State) :
    ∃ c, csrValue n s = some c ∧ c.toNat = csrTable n s := by
  have hwide {k : Nat} (v : BitVec k) (hk : k ≤ 64) : (v.setWidth 64).toNat = v.toNat :=
    BitVec.toNat_setWidth_of_le hk
  match n with
  | 0 => exact ⟨_, rfl, statusWord_toNat s⟩
  | 1 => exact ⟨_, rfl, hwide s.cause (by decide)⟩
  | 2 => exact ⟨_, rfl, hwide s.ecmd (by decide)⟩
  | 6 => exact ⟨_, rfl, hwide s.fidx (by decide)⟩
  | 3 | 4 | 5 | 7 => exact ⟨_, rfl, rfl⟩

theorem exec_rdcsr {n : Nat} {c : Word} {s : State} (h : csrValue n s = some c) (rd : RegNum) :
    exec (.rdcsr rd n) s = .next (writeResult rd (c.setWidth 512) s) := by
  simp [exec, execRdcsr, h]

/-! ### The end of a command, by R171's table and the source -/

theorem exec_faulted {i : Instr} {s : State} (hf : faultTable i s ≠ 0) :
    ∃ t, exec i s = .next t ∧ Faulted (faultTable i s) s t := by
  obtain ⟨f, hcode, -, he⟩ | ⟨h0, -⟩ | ⟨h0, -⟩ := exec_outcome i s
  · exact ⟨_, he, hcode ▸ takeFault_faulted f s⟩
  · exact absurd h0 hf
  · exact absurd h0 hf

theorem exec_completing {i : Instr} {s : State} (hf : faultTable i s = 0) (ha : s.Answers (pullTable i s)) :
    exec i s =
      .next (effect i s (upcoming (pullTable i s) s.source) (afterPulls (pullTable i s) s)) := by
  obtain ⟨f, hc, -, -⟩ | ⟨-, -, he⟩ | ⟨-, ha', -⟩ := exec_outcome i s
  · exact absurd (hc.symm.trans hf) (faultCode_ne_zero f)
  · exact he
  · exact absurd ha ha'

/-! ### The obligations of the state -/

/-- Settles O27, by what the step served. -/
theorem stepKeepsTheInvariant : Obligations.StepKeepsTheInvariant := by
  intro s t hs h
  obtain ⟨-, rfl⟩ | ⟨e, es, -, ho, he⟩ | ⟨es, -, -, rfl⟩ := step_next h
  · exact hs
  · exact serve_inv (s := s.setHost es) ho (setHost_inv es hs) he
  · exact resetState_inv hs.responses

/-- Settles O16, by the three ways a command can end. -/
theorem pullsFollowTheTable : Obligations.PullsFollowTheTable := by
  intro i s t h
  obtain ⟨f, -, hn, he⟩ | ⟨-, ha, he⟩ | ⟨-, ha, he⟩ := exec_outcome i s <;>
    obtain rfl := Host.Outcome.next.inj (h.symm.trans he)
  · have hpulled : Pulled 0 s (takeFault f s) := (takeFault_faulted f s).pulled
    rw [hn]
    exact ⟨fun _ => hpulled, ⟨hpulled.2, hpulled.1⟩, Nat.zero_le _⟩
  · have hc := effect_completed i s (upcoming (pullTable i s) s.source) (afterPulls (pullTable i s) s)
    have hlength := (answers_iff_upcoming s _).1 ha
    rw [hlength]
    exact ⟨fun _ => ⟨hc.pulls, hc.source⟩, ⟨hc.source, hc.pulls⟩, pullTable_le i s⟩
  · have hw := stalled_waiting (pullTable i s) s
    exact ⟨fun hanswers => absurd hanswers ha, ⟨hw.source, hw.pulls⟩, pullTable_le i s⟩

/-- Settles O18, by the three ways a command can end. -/
theorem onlyTheDestinationIsWritten : Obligations.OnlyTheDestinationIsWritten := by
  intro i s t h q hq
  obtain ⟨f, -, -, he⟩ | ⟨-, -, he⟩ | ⟨-, -, he⟩ := exec_outcome i s <;>
    obtain rfl := Host.Outcome.next.inj (h.symm.trans he)
  · exact takeFault_getW s f q
  · exact (effect_completed i s _ (afterPulls (pullTable i s) s)).registers q hq
  · exact (stalled_waiting _ s).registers q

/-- Settles O19: only a completed command answers with status 0. -/
theorem resultsAreZeroAboveTheirWidth : Obligations.ResultsAreZeroAboveTheirWidth := by
  intro i s t rd d h hresp hd hwrl
  obtain ⟨f, -, -, he⟩ | ⟨hf, ha, he⟩ | ⟨-, -, he⟩ := exec_outcome i s <;>
    obtain rfl := Host.Outcome.next.inj (h.symm.trans he)
  · exact absurd (responded_unique (takeFault_faulted f s).response hresp).1 (faultCode_ne_zero f)
  · have hlength := (answers_iff_upcoming s _).1 ha
    exact effect_zeroAbove hd hwrl (hlength.trans (pullTable_of_success hf)) _
  · exact absurd hresp (not_responded_of_kept rfl)

/-- Settles O21, by what a command does to the record and what a step serves. -/
theorem statusRegisterRule : Obligations.StatusRegisterRule := by
  refine ⟨?command, ?illegal, ?reset, ?cleared, fun s => ⟨statusWord s, rfl, statusWord_bits s⟩⟩
  case command =>
    intro i s t h
    obtain ⟨f, hf, hflt, -⟩ | ⟨hf, rfl, hflt, -⟩ | ⟨hf, hi, hflt, -⟩ := exec_record h
    · rw [hflt, hf, if_pos (faultCode_ne_zero f)]
    · rw [hflt, hf]; rfl
    · rw [hflt, hf, if_neg (not_not.2 rfl), if_neg hi]
  case illegal =>
    intro s c es e t hh hd h
    obtain ⟨hnil, -⟩ | ⟨ev, es', hev, -, hs⟩ | ⟨es', hev, -⟩ := step_next h
    · simp [hh] at hnil
    · obtain ⟨rfl, rfl⟩ := List.cons.inj (hh.symm.trans hev)
      obtain ⟨i, hi, -⟩ | ⟨e', -, rfl⟩ := runCommand_next hs
      · cases hd.symm.trans hi
      · rfl
    · simp [hh] at hev
  case reset =>
    intro s es t hh h
    obtain ⟨hnil, -⟩ | ⟨ev, es', hev, -, hs⟩ | ⟨es', -, -, rfl⟩ := step_next h
    · simp [hh] at hnil
    · obtain ⟨rfl, rfl⟩ := List.cons.inj (hh.symm.trans hev)
      obtain rfl := Host.Outcome.next.inj hs
      rfl
    · rfl
  case cleared =>
    intro s t hset h hclear
    have hchanged : t.flt ≠ s.flt := by simp [hset, hclear]
    obtain ⟨-, rfl⟩ | ⟨e, es, hev, -, hs⟩ | ⟨es, hev, -⟩ := step_next h
    · exact absurd rfl hchanged
    · obtain ⟨c, rfl, hc⟩ | ⟨rfl, -⟩ | ⟨c, k, rfl, -⟩ | ⟨value, after, -, rfl⟩ := serve_next hs
      · refine .inr (.inr ⟨c, es, hev, ?_⟩)
        obtain ⟨i, hi, hx⟩ | ⟨e, -, rfl⟩ := runCommand_next hc
        · obtain ⟨f, -, hflt, -⟩ | ⟨-, rfl, -⟩ | ⟨-, -, hflt, -⟩ := exec_record hx
          · exact absurd (hflt.trans hset.symm) hchanged
          · exact hi
          · exact absurd hflt hchanged
        · exact absurd hset.symm hchanged
      · exact .inl ⟨es, hev⟩
      · exact .inr (.inl ⟨c, k, es, hev⟩)
      · exact absurd rfl hchanged
    · exact .inl ⟨es, hev⟩

/-- Settles O22, by what a command does to the record. -/
theorem recordHoldsTheLatestFault : Obligations.RecordHoldsTheLatestFault := by
  intro i s t h
  obtain ⟨f, hf, -, hcause, hecmd⟩ | ⟨hf, rfl, -, hcause, hecmd⟩ | ⟨hf, hi, -, hcause, hecmd⟩ := exec_record h
  · have hne : faultTable i s ≠ 0 := hf.trans_ne (faultCode_ne_zero f)
    exact ⟨fun _ => ⟨hcause.trans hf.symm, hecmd⟩, fun h0 => absurd h0 hne, fun h0 => absurd h0 hne,
      fun h4 => absurd (hcause.symm.trans h4) (faultCode_ne_four f)⟩
  · exact ⟨fun hne => absurd hf hne, fun _ _ => ⟨hcause, hecmd⟩, fun _ hi => absurd rfl hi,
      fun h4 => absurd (hcause.symm.trans h4) (by decide)⟩
  · exact ⟨fun hne => absurd hf hne, fun _ hclrf => absurd hclrf hi, fun _ _ => ⟨hcause, hecmd⟩,
      fun h4 => hcause.symm.trans h4⟩

/-- Settles O24: both states end the same one of the three ways. -/
theorem resultsDependOnOperandsAndPulledWords : Obligations.ResultsDependOnOperandsAndPulledWords := by
  intro i s u t hcsr hblk hops hdin hwords h
  have hfault := faultTable_eq_of_operands hops hblk
  have hpulls := pullTable_eq_of_operands hops hblk
  have hanswers : u.Answers (pullTable i s) ↔ s.Answers (pullTable i s) := by
    rw [answers_iff_upcoming, answers_iff_upcoming, hwords]
  obtain ⟨f, hf, -, he⟩ | ⟨hf, ha, he⟩ | ⟨hf, ha, he⟩ := exec_outcome i s <;>
    obtain rfl := Host.Outcome.next.inj (h.symm.trans he)
  · have hs := (takeFault_faulted f s).response
    have hcode := hfault.trans hf
    obtain ⟨v, hv, hfaulted⟩ := exec_faulted (hcode.trans_ne (faultCode_ne_zero f))
    refine ⟨v, hv, fun c d hr => ?_, fun hr => absurd hs (not_responded_of_kept hr),
      fun d hr => absurd (responded_unique hs hr).1 (faultCode_ne_zero f)⟩
    obtain ⟨rfl, rfl⟩ := responded_unique hs hr
    exact hcode ▸ hfaulted.response
  · have hu := exec_completing (hfault.trans hf) (by rwa [hpulls, hanswers])
    rw [hpulls, hwords, effect_eq_of_operands hops hcsr hblk hdin] at hu
    obtain ⟨⟨d', hs', hu'⟩, hdest, hfeistel⟩ := effect_sameAnswer i s (upcoming (pullTable i s) s.source)
      (afterPulls (pullTable i s) s) (afterPulls (pullTable i s) u)
    refine ⟨_, hu, fun c d hr => ?_, fun hr => absurd hs' (not_responded_of_kept hr), fun _ _ => ⟨hdest, hfeistel⟩⟩
    obtain ⟨rfl, rfl⟩ := responded_unique hs' hr
    exact hu'
  · refine ⟨_, exec_waiting (hfault.trans hf) (by rwa [hpulls, hanswers]), fun c d hr => ?_, fun _ => rfl,
      fun d hr => ?_⟩ <;>
      exact absurd hr (not_responded_of_kept rfl)

/-- Settles O37, by R25's table on both sides. -/
theorem rdcsrReadsTheRegisterTable : Obligations.RdcsrReadsTheRegisterTable := by
  intro rd csr s
  refine ⟨fun hle => ?_, fun hlt => ?_⟩
  · obtain ⟨c, hc, hvalue⟩ := csrValue_eq_csrTable hle s
    refine ⟨_, exec_rdcsr hc rd, writeResult_wrote rd _ s, ?_⟩
    rw [writeResult_getW_same, ← hvalue, BitVec.ofNat_toNat]
  · have hf : faultTable (.rdcsr rd csr) s = 5 := if_pos hlt
    exact hf ▸ exec_faulted (hf.trans_ne (by decide))

/-- Settles O9. -/
theorem resetStateIsAllZero : Obligations.ResetStateIsAllZero := reset_atReset

/-- Settles O26: the reset state is what the reset event leaves of it. -/
theorem resetMeetsTheInvariant : Obligations.ResetMeetsTheInvariant :=
  resetState_inv (s := State.reset) fun _ hr => absurd hr List.not_mem_nil

end Sys2Proof.Claims

/-!
PROOFS. The statements about encoding and decoding (30_encoding.md): the rows of the opcode map are disjoint and read
exactly the bits outside their masks, and the command word is the sum of its fields.
-/

namespace Sys2Proof.Claims

open Sys2Proof.Machine

/-! ### The opcode map as masks and patterns (R62, R63) -/

theorem hits_iff (r : OpRow) (cw : CmdWord) : r.hits cw = true ↔ cw &&& r.mask = r.pat := by
  rw [OpRow.hits, beq_iff_eq]

/-- What two rows ask of the bits that both masks fix differs, unless they are the same row. -/
theorem opRows_patterns_conflict : ∀ a b : Fin opRows.length,
    opRows[a].pat &&& opRows[b].mask = opRows[b].pat &&& opRows[a].mask → a = b := by decide

theorem opRows_hits_unique {cw : CmdWord} {a b : Nat} (ha : a < opRows.length) (hb : b < opRows.length)
    (hita : opRows[a].hits cw = true) (hitb : opRows[b].hits cw = true) : a = b := by
  rw [hits_iff] at hita hitb
  refine congrArg Fin.val (opRows_patterns_conflict ⟨a, ha⟩ ⟨b, hb⟩ ?_)
  calc opRows[a].pat &&& opRows[b].mask
    _ = cw &&& opRows[a].mask &&& opRows[b].mask := by rw [hita]
    _ = cw &&& opRows[b].mask &&& opRows[a].mask := by
      rw [BitVec.and_assoc, BitVec.and_comm opRows[a].mask, ← BitVec.and_assoc]
    _ = opRows[b].pat &&& opRows[a].mask := by rw [hitb]

theorem eq_of_hits {cw : CmdWord} {r q : OpRow} (hr : r ∈ opRows) (hq : q ∈ opRows) (hitr : r.hits cw = true)
    (hitq : q.hits cw = true) : r = q := by
  obtain ⟨a, ha, rfl⟩ := List.getElem_of_mem hr
  obtain ⟨b, hb, rfl⟩ := List.getElem_of_mem hq
  obtain rfl := opRows_hits_unique ha hb hitr hitq
  rfl

theorem decode_of_hits {cw : CmdWord} {r : OpRow} (hr : r ∈ opRows) (hit : r.hits cw = true) :
    decode cw = .ok (r.build cw) := by
  unfold decode
  cases hfind : opRows.find? (fun q => q.hits cw) with
  | none => exact absurd hit (List.find?_eq_none.1 hfind r hr)
  | some q =>
    rw [eq_of_hits hr (List.mem_of_find?_eq_some hfind) hit (List.find?_some (p := (OpRow.hits · cw)) hfind)]

/-- Everything the decoder can answer. -/
theorem decode_cases (cw : CmdWord) :
    (∃ r ∈ opRows, cw &&& r.mask = r.pat ∧ decode cw = .ok (r.build cw)) ∨
    ((∀ r ∈ opRows, cw &&& r.mask ≠ r.pat) ∧ decode cw = .error (rejectReason cw)) := by
  by_cases h : ∃ r ∈ opRows, r.hits cw = true
  · obtain ⟨r, hr, hit⟩ := h
    exact .inl ⟨r, hr, (hits_iff r cw).1 hit, decode_of_hits hr hit⟩
  · have hnone : ∀ r ∈ opRows, ¬ r.hits cw = true := fun r hr hit => h ⟨r, hr, hit⟩
    refine .inr ⟨fun r hr => (hits_iff r cw).not.1 (hnone r hr), ?_⟩
    unfold decode
    rw [List.find?_eq_none.2 hnone]

theorem decode_eq_ok_iff (cw : CmdWord) (i : Instr) :
    decode cw = .ok i ↔ ∃ r ∈ opRows, cw &&& r.mask = r.pat ∧ r.build cw = i := by
  constructor
  · intro h
    obtain ⟨r, hr, hit, hd⟩ | ⟨-, hd⟩ := decode_cases cw
    · exact ⟨r, hr, hit, Except.ok.inj (hd.symm.trans h)⟩
    · exact nomatch h.symm.trans hd
  · rintro ⟨r, hr, hit, rfl⟩
    exact decode_of_hits hr ((hits_iff r cw).2 hit)

theorem decode_eq_error_iff (cw : CmdWord) :
    (∃ e, decode cw = .error e) ↔ ∀ r ∈ opRows, cw &&& r.mask ≠ r.pat := by
  obtain ⟨r, hr, hit, hd⟩ | ⟨hnone, hd⟩ := decode_cases cw
  · exact iff_of_false (fun ⟨e, he⟩ => nomatch hd.symm.trans he) fun h => h r hr hit
  · exact iff_of_true ⟨_, hd⟩ hnone

/-! ### From the command to the word and back -/

/-- The lemmas of Laws/PerInstr.lean for every constructor together. -/
theorem encode_hits_row : ∀ i : Instr, Laws.RowMatch.Statement i
  | .nop => Laws.RowMatch.nop
  | .ldz rd => Laws.RowMatch.ldz rd
  | .wrl rd lane => Laws.RowMatch.wrl rd lane
  | .rdl rs1 lane => Laws.RowMatch.rdl rs1 lane
  | .rdcsr rd csr => Laws.RowMatch.rdcsr rd csr
  | .clrf => Laws.RowMatch.clrf
  | .popcnt ws rd rs1 => Laws.RowMatch.popcnt ws rd rs1
  | .tzcnt ws rd rs1 => Laws.RowMatch.tzcnt ws rd rs1
  | .pext ws rd rs1 rs2 b => Laws.RowMatch.pext ws rd rs1 rs2 b
  | .pdep ws rd rs1 rs2 b => Laws.RowMatch.pdep ws rd rs1 rs2 b
  | .trunc rd n => Laws.RowMatch.trunc rd n
  | .shift rd n => Laws.RowMatch.shift rd n
  | .mext8 rd rs2 => Laws.RowMatch.mext8 rd rs2
  | .mext16 rd rs2 => Laws.RowMatch.mext16 rd rs2
  | .mext32 rd rs2 => Laws.RowMatch.mext32 rd rs2
  | .mext63 rd rs2 => Laws.RowMatch.mext63 rd rs2
  | .sponge rd width => Laws.RowMatch.sponge rd width
  | .construct rd rs2 t => Laws.RowMatch.construct rd rs2 t
  | .slice2 rd rs1 => Laws.RowMatch.slice2 rd rs1
  | .slice4 rd rs1 => Laws.RowMatch.slice4 rd rs1
  | .slice8 rd rs1 => Laws.RowMatch.slice8 rd rs1
  | .concat ws rd => Laws.RowMatch.concat ws rd
  | .mixexp ws rd => Laws.RowMatch.mixexp ws rd
  | .spread ws rd rs2 => Laws.RowMatch.spread ws rd rs2
  | .fseed => Laws.RowMatch.fseed
  | .fblk rd => Laws.RowMatch.fblk rd

theorem decode_encode {i : Instr} (hi : i.WellFormed) : decode (encode i) = .ok i := by
  obtain ⟨r, hr, hit, hbuild⟩ := encode_hits_row i hi
  rw [decode_of_hits hr hit, hbuild]

/-! A field read from a word and put back is the word under the field's mask. -/

theorem ofNat_extractLsb'_shiftLeft (cw : CmdWord) (lo n : Nat) :
    BitVec.ofNat 32 (cw.extractLsb' lo n).toNat <<< lo = cw &&& (BitVec.allOnes n).setWidth 32 <<< lo := by
  apply BitVec.eq_of_getLsbD_eq
  intro j hj
  rw [BitVec.ofNat_toNat]
  by_cases h : j < lo
  · simp [h]
  · have hback : lo + (j - lo) = j := by omega
    simp [h, hj, hback, Bool.and_comm]

theorem putRd_fieldRd_eq (cw : CmdWord) : putRd (fieldRd cw) = cw &&& 0x1C00#32 :=
  ofNat_extractLsb'_shiftLeft cw 10 3

theorem putRs1_fieldRs1_eq (cw : CmdWord) : putRs1 (fieldRs1 cw) = cw &&& 0xE000#32 :=
  ofNat_extractLsb'_shiftLeft cw 13 3

theorem putRs2_fieldRs2_eq (cw : CmdWord) : putRs2 (fieldRs2 cw) = cw &&& 0x70000#32 :=
  ofNat_extractLsb'_shiftLeft cw 16 3

theorem putImm_fieldImm_eq (cw : CmdWord) : putImm (fieldImm cw) = cw &&& 0x1FF80000#32 :=
  ofNat_extractLsb'_shiftLeft cw 19 10

theorem putImm_fieldLane_eq (cw : CmdWord) : putImm (fieldLane cw).val = cw &&& 0x380000#32 :=
  ofNat_extractLsb'_shiftLeft cw 19 3

theorem wsCode_wsOfCode {n : Nat} (h : n < 4) : wsCode (wsOfCode n) = n := by
  match n, h with
  | 0, _ | 1, _ | 2, _ | 3, _ => rfl

theorem putWs_fieldWs_eq (cw : CmdWord) : putWs (fieldWs cw) = cw &&& 0x300#32 := by
  rw [putWs, fieldWs, wsCode_wsOfCode (cw.extractLsb' 8 2).isLt]
  exact ofNat_extractLsb'_shiftLeft cw 8 2

/-! The codes of `ws` that MEXT and SLICE fix (R63). -/

theorem putWs_w128 : putWs .w128 = 0x100#32 := rfl
theorem putWs_w256 : putWs .w256 = 0x200#32 := rfl
theorem putWs_w512 : putWs .w512 = 0x300#32 := rfl

/-- Two fields taken from one word beside a pattern are one field. -/
theorem or_mask_or_mask (p cw m k : CmdWord) : p ||| cw &&& m ||| cw &&& k = p ||| cw &&& (m ||| k) := by
  rw [BitVec.or_assoc, BitVec.and_or_distrib_left]

/-- The encoding of what a row reads from a word is the row's pattern with the word's own bits where the row's mask
leaves them free (R62): the fields a row reads are exactly the bits outside its mask. -/
theorem encode_build {r : OpRow} (hr : r ∈ opRows) (cw : CmdWord) :
    encode (r.build cw) = r.pat ||| cw &&& ~~~r.mask := by
  fin_cases hr
  all_goals simp [encode, putRd_fieldRd_eq, putRs1_fieldRs1_eq, putRs2_fieldRs2_eq, putImm_fieldImm_eq,
    putImm_fieldLane_eq, putWs_fieldWs_eq, putWs_w128, putWs_w256, putWs_w512, or_mask_or_mask]

theorem encode_build_of_hits {r : OpRow} (hr : r ∈ opRows) {cw : CmdWord} (hit : cw &&& r.mask = r.pat) :
    encode (r.build cw) = cw := by
  rw [encode_build hr, ← hit, ← BitVec.and_or_distrib_left, BitVec.or_not_self, BitVec.and_allOnes]

theorem fieldImm_lt (cw : CmdWord) : fieldImm cw < immLimit := (cw.extractLsb' 19 10).isLt

theorem fieldLane_lt (cw : CmdWord) : (fieldLane cw).val < immLimit := (fieldLane cw).isLt.trans (by decide)

theorem build_wellFormed {r : OpRow} (hr : r ∈ opRows) (cw : CmdWord) : (r.build cw).WellFormed := by
  fin_cases hr
  all_goals simp [Instr.WellFormed, Instr.imm, fieldImm_lt, fieldLane_lt]

/-! ### The word as a number (R57, R67) -/

/-- The number `n` put at bit `k` of a command word. -/
def fieldAt (n k : Nat) : CmdWord := BitVec.ofNat 32 n <<< k

@[simp] theorem fieldAt_zero (k : Nat) : fieldAt 0 k = 0#32 := BitVec.zero_shiftLeft k

theorem putWs_eq_fieldAt (ws : Width) : putWs ws = fieldAt (wsCode ws) 8 := rfl
theorem putRd_eq_fieldAt (r : RegNum) : putRd r = fieldAt r.val 10 := rfl
theorem putRs1_eq_fieldAt (r : RegNum) : putRs1 r = fieldAt r.val 13 := rfl
theorem putRs2_eq_fieldAt (r : RegNum) : putRs2 r = fieldAt r.val 16 := rfl
theorem putImm_eq_fieldAt (n : Nat) : putImm n = fieldAt n 19 := rfl

/-- The encoding by the table of field numbers: every command has all six fields, the unused ones being 0 (R64). -/
theorem encode_eq_fields (i : Instr) :
    encode i = BitVec.ofNat 32 (opNumber i) ||| fieldAt (wsNumber i) 8 ||| fieldAt (rdNumber i) 10 |||
      fieldAt (rs1Number i) 13 ||| fieldAt (rs2Number i) 16 ||| fieldAt i.imm 19 := by
  cases i
  all_goals simp [encode, opNumber, wsNumber, rdNumber, destination, rs1Number, rs2Number, Instr.imm, putWs_eq_fieldAt,
    putRd_eq_fieldAt, putRs1_eq_fieldAt, putRs2_eq_fieldAt, putImm_eq_fieldAt, wsCode]

/-- A field above everything set so far adds its number at its place. -/
theorem toNat_or_fieldAt {acc : CmdWord} {m n k : Nat} (hacc : acc.toNat = m) (hm : m < 2 ^ k)
    (hn : n * 2 ^ k < 2 ^ 32) : (acc ||| fieldAt n k).toNat = m + n * 2 ^ k := by
  have hsmall : n < 2 ^ 32 := lt_of_le_of_lt (Nat.le_mul_of_pos_right n (Nat.two_pow_pos k)) hn
  have hfield : (fieldAt n k).toNat = n <<< k := by
    rw [fieldAt, BitVec.toNat_shiftLeft, BitVec.toNat_ofNat, Nat.mod_eq_of_lt hsmall,
      Nat.mod_eq_of_lt (Nat.shiftLeft_eq n k ▸ hn)]
  rw [BitVec.toNat_or, hacc, hfield, Nat.or_comm, ← Nat.shiftLeft_add_eq_or_of_lt hm, Nat.shiftLeft_eq, Nat.add_comm]

theorem opNumber_mem (i : Instr) : opNumber i ∈ assignedOps := by cases i <;> simp [opNumber, assignedOps]

theorem opNumber_lt (i : Instr) : opNumber i < 2 ^ 8 :=
  have hall : ∀ op ∈ assignedOps, op < 2 ^ 8 := by decide
  hall _ (opNumber_mem i)

theorem wsCode_lt (ws : Width) : wsCode ws < 4 := by cases ws <;> decide

theorem wsNumber_lt (i : Instr) : wsNumber i < 4 := by cases i <;> simp [wsNumber, wsCode_lt]

theorem rdNumber_lt (i : Instr) : rdNumber i < 8 := by
  unfold rdNumber
  cases destination i with
  | none => decide
  | some rd => exact rd.isLt

theorem rs1Number_lt (i : Instr) : rs1Number i < 8 := by cases i <;> simp [rs1Number]

theorem rs2Number_lt (i : Instr) : rs2Number i < 8 := by cases i <;> simp [rs2Number]

/-- Every field number fits its field. -/
theorem fieldNumbers_lt {i : Instr} (hi : i.WellFormed) :
    opNumber i < 2 ^ 8 ∧ wsNumber i < 4 ∧ rdNumber i < 8 ∧ rs1Number i < 8 ∧ rs2Number i < 8 ∧ i.imm < 1024 :=
  ⟨opNumber_lt i, wsNumber_lt i, rdNumber_lt i, rs1Number_lt i, rs2Number_lt i, hi⟩

/-- The word of a command is the sum of its fields at their places. -/
theorem toNat_encode {i : Instr} (hi : i.WellFormed) : (encode i).toNat = layoutNumber i := by
  obtain ⟨hop, hws, hrd, hrs1, hrs2, himm⟩ := fieldNumbers_lt hi
  have toOp : (BitVec.ofNat 32 (opNumber i)).toNat = opNumber i := Nat.mod_eq_of_lt (by omega)
  have toWs := toNat_or_fieldAt (n := wsNumber i) (k := 8) toOp (by omega) (by omega)
  have toRd := toNat_or_fieldAt (n := rdNumber i) (k := 10) toWs (by omega) (by omega)
  have toRs1 := toNat_or_fieldAt (n := rs1Number i) (k := 13) toRd (by omega) (by omega)
  have toRs2 := toNat_or_fieldAt (n := rs2Number i) (k := 16) toRs1 (by omega) (by omega)
  rw [encode_eq_fields]
  exact toNat_or_fieldAt toRs2 (by omega) (by omega)

/-- `op`, `rsv`, `ws` and `imm` read back from the sum of the fields. -/
theorem layoutNumber_fields {i : Instr} (hi : i.WellFormed) :
    layoutNumber i % 256 = opNumber i ∧ layoutNumber i / 2 ^ 29 = 0 ∧ layoutNumber i / 2 ^ 8 % 4 = wsNumber i ∧
      layoutNumber i / 2 ^ 19 % 2 ^ 10 = i.imm := by
  obtain ⟨hop, hws, hrd, hrs1, hrs2, himm⟩ := fieldNumbers_lt hi
  unfold layoutNumber
  omega

/-- SLICE has no form with `ws = 0` (R63). -/
theorem wsNumber_ne_zero_of_slice {i : Instr} (h : opNumber i = 0x25) : wsNumber i ≠ 0 := by
  cases i <;> simp [opNumber] at h
  case slice2 | slice4 | slice8 => simp [wsNumber]

/-- WRL and RDL name one of eight lanes (R59). -/
theorem imm_le_of_lane {i : Instr} (h : opNumber i = 0x02 ∨ opNumber i = 0x03) : i.imm ≤ 7 := by
  cases i <;> simp [opNumber] at h
  case wrl rd lane => exact Nat.le_of_lt_succ lane.isLt
  case rdl rs1 lane => exact Nat.le_of_lt_succ lane.isLt

/-- A word that hits a row is the sum of the fields of a well-formed command. -/
theorem toNat_of_hits {r : OpRow} (hr : r ∈ opRows) {cw : CmdWord} (hit : cw &&& r.mask = r.pat) :
    ∃ i : Instr, i.WellFormed ∧ cw.toNat = layoutNumber i := by
  have hw := build_wellFormed hr cw
  exact ⟨r.build cw, hw, by rw [← toNat_encode hw, encode_build_of_hits hr hit]⟩

/-! ### The obligations of the encoding -/

/-- Settles O1, by the row each constructor's word hits. -/
theorem decodeOfEncodeIsTheCommand : Obligations.DecodeOfEncodeIsTheCommand := fun _ => decode_encode

/-- Settles O2: a row's mask leaves free exactly the fields the row reads. -/
theorem encodeOfDecodeIsTheWord : Obligations.EncodeOfDecodeIsTheWord := by
  intro cw i h
  obtain ⟨r, hr, hit, rfl⟩ := (decode_eq_ok_iff cw i).1 h
  exact ⟨encode_build_of_hits hr hit, build_wellFormed hr cw⟩

/-- Settles O3, field by field from the lowest. -/
theorem encodingFollowsTheFieldLayout : Obligations.EncodingFollowsTheFieldLayout := fun _ => toNat_encode

/-- Settles O4: two rows ask different values of a bit that both masks fix. -/
theorem decodingIsMaskAndMatch : Obligations.DecodingIsMaskAndMatch :=
  ⟨decode_eq_ok_iff, fun _ _ _ ha hb => opRows_hits_unique ha hb, fun cw => (decode_eq_error_iff cw).symm⟩

/-- Settles O5: a word that hits a row is laid out as the fields of a command, and no command has these fields. -/
theorem reservedWordsMatchNoRow : Obligations.ReservedWordsMatchNoRow := by
  intro cw hreserved r hr hit
  obtain ⟨i, hi, hcw⟩ := toNat_of_hits hr hit
  obtain ⟨hreadOp, hreadRsv, hreadWs, hreadImm⟩ := layoutNumber_fields hi
  rw [hcw, hreadOp, hreadRsv, hreadWs, hreadImm] at hreserved
  obtain hop | hrsv | ⟨hslice, hws⟩ | ⟨hlane, himm⟩ := hreserved
  · exact hop (opNumber_mem i)
  · exact hrsv rfl
  · exact wsNumber_ne_zero_of_slice hslice hws
  · exact absurd (imm_le_of_lane hlane) (Nat.not_le.2 himm)

/-- Settles O6, each word by its row of the opcode map. -/
theorem specWordsDecodeToTheirCommands : Obligations.SpecWordsDecodeToTheirCommands := by
  unfold Obligations.SpecWordsDecodeToTheirCommands
  decide

end Sys2Proof.Claims

/-!
PROOFS. The statements about a presented command (30_encoding.md): its response and `DOUT`, what `DIN` can change, and
the expansion of `ldw`.
-/

namespace Sys2Proof.Claims

open Sys2Proof.Machine

/-! ### Responses (R55, R61, R177) -/

/-- What an answer leaves of the responses and the flag of R198, for a command presented in `s`: one response and no
command outstanding, or the command outstanding and no response. -/
def AnswersOrWaits (s t : State) : Prop :=
  (t.outstanding = false ∧ ∃ r, t.responses = s.responses ++ [r]) ∨ (t.outstanding = true ∧ t.responses = s.responses)

theorem exec_answersOrWaits {i : Instr} {s t : State} (ho : s.outstanding = false) (h : exec i s = .next t) :
    AnswersOrWaits s t := by
  obtain ⟨f, -, -, he⟩ | ⟨-, -, he⟩ | ⟨-, -, he⟩ := exec_outcome i s <;>
    obtain rfl := Host.Outcome.next.inj (h.symm.trans he)
  · exact .inl ⟨ho, _, (takeFault_faulted f s).response⟩
  · obtain ⟨d, hresp⟩ :=
      (effect_completed i s (upcoming (pullTable i s) s.source) (afterPulls (pullTable i s) s)).response
    exact .inl ⟨(effect_outstanding i s _ _).trans ho, _, hresp⟩
  · exact .inr ⟨rfl, rfl⟩

theorem runCommand_answersOrWaits {c : Command} {s t : State} (ho : s.outstanding = false)
    (h : runCommand c s = .next t) : AnswersOrWaits s t := by
  obtain ⟨i, -, hx⟩ | ⟨e, -, rfl⟩ := runCommand_next h
  · exact exec_answersOrWaits (s := s.present c) ho hx
  · exact .inl ⟨ho, _, rfl⟩

/-- Settles O8, by what the step served. -/
theorem responsesAreNeverWithdrawn : Obligations.ResponsesAreNeverWithdrawn := by
  intro s t h
  obtain ⟨hnil, rfl⟩ | ⟨e, es, hev, ho, hs⟩ | ⟨es, hev, -, rfl⟩ := step_next h
  · exact ⟨fun ⟨c, es, hc⟩ => by simp [hnil] at hc, fun _ => rfl⟩
  · obtain ⟨c, rfl, hc⟩ | ⟨rfl, rfl⟩ | ⟨c, k, rfl, rfl⟩ | ⟨value, after, rfl, rfl⟩ := serve_next hs
    · exact ⟨fun _ => runCommand_answersOrWaits (s := s.setHost es) ho hc, fun hnot => absurd hev (hnot c es)⟩
    all_goals exact ⟨fun ⟨c, es, hc⟩ => by simp [hev] at hc, fun _ => rfl⟩
  · exact ⟨fun ⟨c, es, hc⟩ => by simp [hev] at hc, fun _ => rfl⟩

/-- The rule of R61 for the `DOUT` of a command that succeeds from `s` to `t`. -/
def DataOutRule (i : Instr) (s t : State) (d : Word) : Prop :=
  (∀ rd, destination i = some rd → (∀ lane, i ≠ .wrl rd lane) → d = (t.getW rd).setWidth 64) ∧
  (∀ rs1 lane, i = .rdl rs1 lane → d = (s.getW rs1).extractLsb' (64 * lane.val) 64) ∧
  ((i = .nop ∨ i = .clrf ∨ i = .fseed ∨ ∃ rd lane, i = .wrl rd lane) → d = 0)

theorem writeResult_dataOut {i : Instr} {rd : RegNum} (hd : destination i = some rd) (hi : ∀ rd lane, i ≠ .wrl rd lane)
    (s : State) {s1 s2 : State} (h : s2.responses = s1.responses) (v : Wide) :
    ∃ d, Responded 0 d s1 (writeResult rd v s2) ∧ DataOutRule i s (writeResult rd v s2) d := by
  refine ⟨v.setWidth 64, by simp [Responded, h], fun r hr _ => ?_, ?_, ?_⟩
  · obtain rfl := Option.some.inj (hd.symm.trans hr)
    rw [writeResult_getW_same]
  · rintro rs1 lane rfl
    cases hd
  · rintro (rfl | rfl | rfl | ⟨rd, lane, rfl⟩)
    case inr.inr.inr => exact absurd rfl (hi rd lane)
    all_goals cases hd

theorem effect_dataOut (i : Instr) (s : State) (xs : List Word) (s1 : State) :
    ∃ d, Responded 0 d s1 (effect i s xs s1) ∧ DataOutRule i s (effect i s xs s1) d := by
  cases i with
  | nop | clrf | fseed => exact ⟨0, rfl, (fun _ hd => nomatch hd), (fun _ _ h => nomatch h), fun _ => rfl⟩
  | wrl rd lane =>
    refine ⟨0, rfl, fun r hr hne => ?_, (fun _ _ h => nomatch h), fun _ => rfl⟩
    cases hr
    exact absurd rfl (hne lane)
  | rdl rs1 lane =>
    refine ⟨_, rfl, (fun _ hd => nomatch hd), fun r l h => ?_, fun h => ?_⟩
    · cases h
      rfl
    · simp at h
  | fblk rd => exact writeResult_dataOut rfl (fun _ _ => Instr.noConfusion) s (advanceCursor_responses _ s1) _
  | _ => exact writeResult_dataOut rfl (fun _ _ => Instr.noConfusion) s rfl _

/-- Settles O17, by the three ways a command can end. -/
theorem dataOutFollowsTheRule : Obligations.DataOutFollowsTheRule := by
  refine ⟨?answered, ?answers, ?illegal⟩
  case answered =>
    intro i s t c d h hresp
    obtain ⟨f, -, -, he⟩ | ⟨-, -, he⟩ | ⟨-, -, he⟩ := exec_outcome i s <;>
      obtain rfl := Host.Outcome.next.inj (h.symm.trans he)
    · obtain ⟨rfl, rfl⟩ := responded_unique (takeFault_faulted f s).response hresp
      exact ⟨fun _ => rfl, fun h0 => absurd h0 (faultCode_ne_zero f)⟩
    · obtain ⟨d', hs, hrule⟩ := effect_dataOut i s (upcoming (pullTable i s) s.source) (afterPulls (pullTable i s) s)
      obtain ⟨rfl, rfl⟩ := responded_unique hs hresp
      exact ⟨fun hne => absurd rfl hne, fun _ => hrule⟩
    · exact absurd hresp (not_responded_of_kept rfl)
  case answers =>
    intro i s ha
    obtain ⟨f, -, -, he⟩ | ⟨-, -, he⟩ | ⟨-, hshort, -⟩ := exec_outcome i s
    · exact ⟨_, _, _, he, (takeFault_faulted f s).response⟩
    · obtain ⟨d, hs, -⟩ := effect_dataOut i s (upcoming (pullTable i s) s.source) (afterPulls (pullTable i s) s)
      exact ⟨_, _, d, he, hs⟩
    · exact absurd ha hshort
  case illegal =>
    intro s c es e ho h hd
    refine ⟨takeFault .illegalCommand ((s.setHost es).present c), ?_, rfl⟩
    rw [step_of_event ho h]
    simp [serve, runCommand, hd]

/-- A command ends in one way. -/
theorem ends_unique {i : Instr} {s : State} {o o' : Out} (h : Ends i s o) (h' : Ends i s o') : o = o' := by
  obtain ⟨f, hf, rfl⟩ | ⟨hf, ha, rfl⟩ | ⟨hf, ha, rfl⟩ := h <;>
    obtain ⟨f', hf', rfl⟩ | ⟨hf', ha', rfl⟩ | ⟨hf', ha', rfl⟩ := h' <;>
    cases hf.symm.trans hf'
  · rfl
  · rfl
  · exact absurd ha ha'
  · exact absurd ha' ha
  · rfl

/-! ### `DIN` (R60) -/

section

variable (d : Word)

theorem commandFault_withDin (i : Instr) (s : State) : commandFault i (withDin d s) = commandFault i s := by
  cases i <;> rfl

theorem pullsOnSuccess_withDin (i : Instr) (s : State) : pullsOnSuccess i (withDin d s) = pullsOnSuccess i s := by
  cases i <;> rfl

theorem advanceCursor_withDin (sk : Word × Word) (s : State) :
    advanceCursor sk (withDin d s) = withDin d (advanceCursor sk s) := by
  unfold advanceCursor
  rw [apply_ite (withDin d)]
  rfl

theorem effect_withDin {i : Instr} (hldz : ∀ rd, i ≠ .ldz rd) (hwrl : ∀ rd lane, i ≠ .wrl rd lane) (s : State)
    (xs : List Word) (s1 : State) : effect i (withDin d s) xs (withDin d s1) = withDin d (effect i s xs s1) := by
  cases i with
  | ldz rd => exact absurd rfl (hldz rd)
  | wrl rd lane => exact absurd rfl (hwrl rd lane)
  | fblk rd => exact congrArg (writeResult rd _) (advanceCursor_withDin d _ s1)
  | _ => rfl

end

/-- Settles O23: the same one of the three ways to end, and nothing computed from `DIN`. -/
theorem dinOnlyMattersToLdzAndWrl : Obligations.DinOnlyMattersToLdzAndWrl := by
  intro i s d hldz hwrl
  have hfault := commandFault_withDin d i s
  have hpulls := pullsOnSuccess_withDin d i s
  refine ends_unique (exec_cases i (withDin d s)) ?_
  obtain ⟨f, hf, he⟩ | ⟨hf, ha, he⟩ | ⟨hf, ha, he⟩ := exec_cases i s <;> rw [he]
  · exact .inl ⟨f, hfault.trans hf, rfl⟩
  · refine .inr (.inl ⟨hfault.trans hf, hpulls ▸ ha, ?_⟩)
    rw [hpulls]
    exact congrArg Host.Outcome.next (effect_withDin d hldz hwrl s _ _).symm
  · refine .inr (.inr ⟨hfault.trans hf, hpulls ▸ ha, ?_⟩)
    rw [hpulls]
    rfl

/-! ### The pseudo-instruction `ldw` (R68, R195) -/

theorem runCommand_encode {i : Instr} (hi : i.WellFormed) (din : Word) (s : State) :
    runCommand ⟨encode i, din⟩ s = exec i (s.present ⟨encode i, din⟩) := by
  simp [runCommand, decode_encode hi]

theorem runCommand_ldz (rd : RegNum) (x : Word) (s : State) :
    runCommand (ldzCommand rd x) s = .next (writeResult rd (x.setWidth 512) (s.present (ldzCommand rd x))) :=
  runCommand_encode (i := .ldz rd) (by simp [Instr.WellFormed, Instr.imm]) x s

theorem runCommand_wrl (rd : RegNum) (lane : LaneNum) (x : Word) (s : State) :
    runCommand (wrlCommand rd lane x) s =
      .next (answer 0 ((s.present (wrlCommand rd lane x)).setW rd (setLane (s.getW rd) lane x))) :=
  runCommand_encode (i := .wrl rd lane) (lane.isLt.trans (by decide)) x s

theorem runAll_cons {c : Command} {s t : State} (h : runCommand c s = .next t) (cs : List Command) :
    runAll (c :: cs) s = runAll cs t := by
  rw [runAll, h]

theorem runAll_append {cs : List Command} {s t : State} (h : runAll cs s = some t) (ds : List Command) :
    runAll (cs ++ ds) s = runAll ds t := by
  induction cs generalizing s with
  | nil =>
    obtain rfl := Option.some.inj h
    rfl
  | cons c cs ih =>
    rw [List.cons_append]
    cases hc : runCommand c s with
    | next u => rw [runAll_cons hc]; exact ih ((runAll_cons hc cs).symm.trans h)
    | fault r => simp [runAll, hc] at h
    | refused r => simp [runAll, hc] at h

/-- The bits of a value with one lane replaced (R152). -/
theorem setLane_getLsbD (t : Wide) (j : LaneNum) (x : Word) (b : Nat) :
    (setLane t j x).getLsbD b =
      if 64 * j.val ≤ b ∧ b < 64 * j.val + 64 then x.getLsbD (b - 64 * j.val) else t.getLsbD b := by
  have hj := j.isLt
  simp only [setLane, BitVec.getLsbD_or, BitVec.getLsbD_and, BitVec.getLsbD_not, BitVec.getLsbD_shiftLeft,
    BitVec.getLsbD_setWidth, BitVec.getLsbD_allOnes]
  split
  case isTrue h =>
    have hin : b < 512 := by omega
    have hsub : b - 64 * j.val < 512 := by omega
    have hoff : b - 64 * j.val < 64 := by omega
    simp [hin, hsub, hoff, Nat.not_lt.2 h.1]
  case isFalse h =>
    by_cases hin : b < 512
    · by_cases hlow : b < 64 * j.val
      · simp [hin, hlow]
      · have hoff : ¬ b - 64 * j.val < 64 := by omega
        simp [hin, hoff, BitVec.getLsbD_of_ge x _ (Nat.not_lt.1 hoff)]
    · simp [hin, BitVec.getLsbD_of_ge t b (Nat.not_lt.1 hin)]

/-- The low `j + 1` lanes of a value are lane `j` over the low `j` lanes. -/
theorem lowLanes_succ (v : Wide) (j b : Nat) :
    (decide (b < 64 * (j + 1)) && v.getLsbD b) =
      if 64 * j ≤ b ∧ b < 64 * j + 64 then (v.extractLsb' (64 * j) 64).getLsbD (b - 64 * j)
      else (decide (b < 64 * j) && v.getLsbD b) := by
  split
  case isTrue h =>
    have hback : 64 * j + (b - 64 * j) = b := by omega
    have hoff : b - 64 * j < 64 := by omega
    have hin : b < 64 * (j + 1) := by omega
    simp [hback, hoff, hin]
  case isFalse h =>
    have hsame : b < 64 * (j + 1) ↔ b < 64 * j := by omega
    simp only [hsame]

/-- The commands `cs` leave the low `k` lanes of `v` in `W[rd]`, zeros above, and touch no other register. -/
def LoadsLanes (rd : RegNum) (v : Wide) (s : State) (cs : List Command) (k : Nat) : Prop :=
  ∃ t, runAll cs s = some t ∧ OthersKept rd s t ∧
    ∀ b, (t.getW rd).getLsbD b = (decide (b < 64 * k) && v.getLsbD b)

theorem loadsLanes_ldz (rd : RegNum) (v : Wide) (s : State) : LoadsLanes rd v s [ldzCommand rd (v.setWidth 64)] 1 := by
  refine ⟨_, runAll_cons (runCommand_ldz rd _ s) [], fun q hq => writeResult_getW_other _ hq, fun b => ?_⟩
  have hin : b < 512 ∧ b < 64 ↔ b < 64 := by omega
  simp [← Bool.and_assoc, ← Bool.decide_and, hin]

/-- A lane that `ldw` leaves out is zero, and the register has zeros there already. -/
theorem loadsLanes_append {rd : RegNum} {v : Wide} {s : State} {cs : List Command} {j : LaneNum}
    (h : LoadsLanes rd v s cs j.val) : LoadsLanes rd v s (cs ++ ldwLane rd v j) (j.val + 1) := by
  obtain ⟨t, hrun, hothers, hbits⟩ := h
  simp only [LoadsLanes, runAll_append hrun, lowLanes_succ, ← hbits]
  unfold ldwLane
  split
  case isTrue hzero =>
    refine ⟨t, rfl, hothers, fun b => ?_⟩
    rw [hzero, hbits b]
    split
    case isTrue hin => simp [Nat.not_lt.2 hin.1]
    case isFalse => rfl
  case isFalse =>
    refine ⟨_, runAll_cons (runCommand_wrl rd j _ t) [], fun q hq => ?_, fun b => ?_⟩
    · exact (State.setW_getW_other _ _ hq).trans (hothers q hq)
    · rw [answer_getW, State.setW_getW_same, setLane_getLsbD]

/-- Settles O60, lane by lane. -/
theorem ldwLoadsAWideValue : Obligations.LdwLoadsAWideValue := by
  intro rd v s
  have h1 := loadsLanes_ldz rd v s
  have h2 := loadsLanes_append (j := 1) h1
  have h3 := loadsLanes_append (j := 2) h2
  have h4 := loadsLanes_append (j := 3) h3
  have h5 := loadsLanes_append (j := 4) h4
  have h6 := loadsLanes_append (j := 5) h5
  have h7 := loadsLanes_append (j := 6) h6
  obtain ⟨t, hrun, hothers, hbits⟩ := loadsLanes_append (j := 7) h7
  refine ⟨t, hrun, BitVec.eq_of_getLsbD_eq fun b hb => ?_, hothers⟩
  have hin : b < 64 * ((7 : LaneNum).val + 1) := hb
  rw [hbits b, decide_eq_true hin, Bool.true_and]

end Sys2Proof.Claims

/-!
PROOFS. The statements about the BitMath functions and commands (40_bitmath.md): counts of set bits, the lowest set bit,
and gathering and scattering under a mask, said bit by bit.
-/

namespace Sys2Proof.Claims

open Sys2Proof.Machine

/-! ### Counts of set bits (R75) -/

theorem countSet_succ {n : Nat} (v : BitVec n) (i : Nat) : countSet v (i + 1) = countSet v i + (v.getLsbD i).toNat := by
  rw [countSet_eq_countBelow, countSet_eq_countBelow, countBelow]

/-- The statements' count is Mathlib's count of the positions with a set bit. -/
theorem countSet_eq_count {n : Nat} (v : BitVec n) (i : Nat) : countSet v i = Nat.count (v.getLsbD ·) i := by
  induction i with
  | zero => rfl
  | succ i ih =>
    rw [countSet_succ, Nat.count_succ, ih]
    cases h : v.getLsbD i <;> simp

theorem countSet_le {n : Nat} (v : BitVec n) (i : Nat) : countSet v i ≤ i := by
  rw [countSet_eq_count]; exact Nat.count_le _

theorem countSet_lt_of_set {n : Nat} {v : BitVec n} {p i : Nat} (hset : v.getLsbD p = true) (h : p < i) :
    countSet v p < countSet v i := by
  rw [countSet_eq_count, countSet_eq_count]; exact Nat.count_strict_mono hset h

theorem countSet_eq_zero_of_clear {n : Nat} {v : BitVec n} {i : Nat} (h : ∀ k, k < i → v.getLsbD k = false) :
    countSet v i = 0 := by
  rw [countSet_eq_count, Nat.count_iff_forall_not]
  intro k hk
  simp [h k hk]

/-- The low `n` bits count as the whole value below `n`. -/
theorem countSet_setWidth {m n i : Nat} (v : BitVec m) (h : i ≤ n) : countSet (v.setWidth n) i = countSet v i := by
  rw [countSet_eq_countBelow, countBelow_setWidth v h, countSet_eq_countBelow]

/-- Every number below the count is the number of a set bit. -/
theorem exists_set_of_lt_countSet {n : Nat} {v : BitVec n} {i j : Nat} (h : j < countSet v i) :
    ∃ p, p < i ∧ v.getLsbD p = true ∧ countSet v p = j := by
  induction i with
  | zero => exact absurd h (Nat.not_lt_zero j)
  | succ i ih =>
    by_cases hj : j < countSet v i
    · obtain ⟨p, hp, hset, hcount⟩ := ih hj
      exact ⟨p, Nat.lt_succ_of_lt hp, hset, hcount⟩
    · rw [countSet_succ] at h
      cases hbit : v.getLsbD i with
      | false => simp [hbit, hj] at h
      | true =>
        rw [hbit, Bool.toNat_true] at h
        exact ⟨i, Nat.lt_succ_self i, hbit, by omega⟩

/-- Counting past position `start` goes on in the bits extracted from there. -/
theorem countSet_add_extractLsb' {n : Nat} (v : BitVec n) (start : Nat) {len i : Nat} (h : i ≤ len) :
    countSet v (start + i) = countSet v start + countSet (v.extractLsb' start len) i := by
  induction i with
  | zero => rfl
  | succ i ih =>
    have hi : i < len := h
    rw [← Nat.add_assoc, countSet_succ, countSet_succ, ih (Nat.le_of_lt h)]
    simp [hi, Nat.add_assoc]

theorem popcount_eq_countSet {n : Nat} (v : BitVec n) : popcount v = countSet v n := by
  rw [popcount, countSet_eq_countBelow]

/-- The counts of the low `k` words add up to the count below their end. -/
theorem sum_popcount_words {n : Nat} (v : BitVec n) (k : Nat) :
    ((List.range k).map fun j => popcount (v.extractLsb' (64 * j) 64)).sum = countSet v (64 * k) := by
  induction k with
  | zero => rfl
  | succ k ih =>
    rw [List.range_succ, List.map_append, List.sum_append, ih, Nat.mul_succ, countSet_add_extractLsb' v _ le_rfl,
      ← popcount_eq_countSet]
    simp

/-! ### The lowest set bit (R76, R77) -/

/-- `k` is the position of the lowest set bit of `v` below `N`, or `N` when no bit is set there. -/
structure LowestBelow {n : Nat} (v : BitVec n) (N k : Nat) : Prop where
  le : k ≤ N
  clear : ∀ i, i < k → v.getLsbD i = false
  set : k < N → v.getLsbD k = true

theorem LowestBelow.unique {n : Nat} {v : BitVec n} {N k k' : Nat} (h : LowestBelow v N k) (h' : LowestBelow v N k') :
    k = k' := by
  have hnot {a b : Nat} (ha : LowestBelow v N a) (hb : LowestBelow v N b) : ¬ a < b := fun hlt =>
    Bool.noConfusion ((hb.clear a hlt).symm.trans (ha.set (hlt.trans_le hb.le)))
  exact Nat.le_antisymm (Nat.not_lt.1 (hnot h' h)) (Nat.not_lt.1 (hnot h h'))

/-- The position is that of a set bit unless the value is zero. -/
theorem LowestBelow.lt_iff {n k : Nat} {v : BitVec n} (h : LowestBelow v n k) : k < n ↔ v ≠ 0 := by
  constructor
  · rintro hk rfl
    exact Bool.noConfusion (BitVec.getLsbD_zero.symm.trans (h.set hk))
  · refine fun hv => Nat.lt_of_not_le fun hk => hv (BitVec.eq_of_getLsbD_eq fun i hi => ?_)
    rw [h.clear i (hi.trans_le hk)]
    exact BitVec.getLsbD_zero.symm

theorem LowestBelow.of_setWidth {m n k : Nat} {v : BitVec m} (h : LowestBelow (v.setWidth n) n k) :
    LowestBelow v n k where
  le := h.le
  clear i hi := by simpa [hi.trans_le h.le] using h.clear i hi
  set hk := by simpa [hk] using h.set hk

/-- The scan of a word from position `i` on, with no bit set below `i`. -/
theorem tzScan_lowest {x : Word} (left : Nat) {i : Nat} (h : ∀ p, p < i → x.getLsbD p = false) :
    LowestBelow x (i + left) (tzScan x left i) := by
  induction left generalizing i with
  | zero => exact ⟨le_rfl, h, fun hlt => absurd hlt (Nat.lt_irrefl i)⟩
  | succ left ih =>
    unfold tzScan
    split
    case isTrue hset => exact ⟨by omega, h, fun _ => hset⟩
    case isFalse hclear =>
      rw [Nat.add_succ, ← Nat.succ_add]
      refine ih fun p hp => ?_
      obtain hlt | rfl := Nat.lt_succ_iff_lt_or_eq.1 hp
      · exact h p hlt
      · exact Bool.eq_false_iff.2 hclear

theorem tz64_lowest (x : Word) : LowestBelow x 64 (tz64 x) :=
  tzScan_lowest 64 fun _ hp => absurd hp (Nat.not_lt_zero _)

/-- The bits of a word, at their positions in the value (R9). -/
theorem getLsbD_of_word {n : Nat} (v : BitVec n) {j p : Nat} (hlo : 64 * j ≤ p) (hhi : p < 64 * j + 64) :
    v.getLsbD p = (v.extractLsb' (64 * j) 64).getLsbD (p - 64 * j) := by
  have hoff : p - 64 * j < 64 := by omega
  simp [hoff, Nat.add_sub_cancel' hlo]

theorem clear_of_words_zero {n : Nat} {v : BitVec n} {j : Nat} (h : ∀ i, i < j → v.extractLsb' (64 * i) 64 = 0) :
    ∀ p, p < 64 * j → v.getLsbD p = false := by
  intro p hp
  rw [getLsbD_of_word v (j := p / 64) (by omega) (by omega), h _ (by omega)]
  exact BitVec.getLsbD_zero

/-- Above bits that are all clear, the first nonzero word holds the lowest set bit. -/
theorem lowest_of_word {n : Nat} {v : BitVec n} {j k : Nat} (hj : j < k)
    (hclear : ∀ p, p < 64 * j → v.getLsbD p = false) (hw : v.extractLsb' (64 * j) 64 ≠ 0) :
    LowestBelow v (64 * k) (64 * j + tz64 (v.extractLsb' (64 * j) 64)) := by
  have hlow := tz64_lowest (v.extractLsb' (64 * j) 64)
  have hlt := hlow.lt_iff.2 hw
  refine ⟨by omega, fun p hp => ?_, fun _ => ?_⟩
  · by_cases hbelow : p < 64 * j
    · exact hclear p hbelow
    · rw [getLsbD_of_word v (Nat.not_lt.1 hbelow) (by omega)]
      exact hlow.clear _ (by omega)
  · rw [getLsbD_of_word v (Nat.le_add_right _ _) (by omega), Nat.add_sub_cancel_left]
    exact hlow.set hlt

/-- The scan of a value from word `j` on, with every word below `j` zero. -/
theorem tzWords_lowest {n : Nat} {v : BitVec n} (left : Nat) {j : Nat}
    (h : ∀ i, i < j → v.extractLsb' (64 * i) 64 = 0) : LowestBelow v (64 * (j + left)) (tzWords v left j) := by
  induction left generalizing j with
  | zero => exact ⟨le_rfl, clear_of_words_zero h, fun hlt => absurd hlt (Nat.lt_irrefl _)⟩
  | succ left ih =>
    unfold tzWords
    split
    case isTrue hw => exact lowest_of_word (by omega) (clear_of_words_zero h) hw
    case isFalse hw =>
      rw [Nat.add_succ, ← Nat.succ_add]
      refine ih fun i hi => ?_
      obtain hlt | rfl := Nat.lt_succ_iff_lt_or_eq.1 hi
      · exact h i hlt
      · exact not_not.1 hw

theorem tz_lowest {n : Nat} (h : 64 ∣ n) (v : BitVec n) : LowestBelow v n (tz v) := by
  have hscan : LowestBelow v (64 * (0 + n / 64)) (tz v) :=
    tzWords_lowest (n / 64) fun _ hi => absurd hi (Nat.not_lt_zero _)
  rwa [Nat.zero_add, Nat.mul_div_cancel' h] at hscan

theorem dvd_opBits (ws : Width) : 64 ∣ opBits ws := by cases ws <;> decide

/-! ### Gathering (R78) -/

theorem setBit_getLsbD {n : Nat} (r : BitVec n) (k : Nat) (b : Bool) (j : Nat) :
    (setBit r k b).getLsbD j = if j = k then decide (k < n) && b else r.getLsbD j := by
  have hone : (if b then 1#n else 0#n).getLsbD (j - k) = (decide (0 < n) && decide (j - k = 0) && b) := by
    cases b <;> simp
  simp only [setBit, BitVec.getLsbD_or, BitVec.getLsbD_and, BitVec.getLsbD_not, BitVec.getLsbD_shiftLeft,
    BitVec.getLsbD_one, hone]
  by_cases hj : j < n
  · obtain hlt | rfl | hgt := Nat.lt_trichotomy j k
    · simp [hj, hlt, hlt.ne]
    · simp [hj, Nat.zero_lt_of_lt hj]
    · simp [hj, hgt.ne', Nat.sub_ne_zero_of_lt hgt]
  · rw [BitVec.getLsbD_of_ge r j (Nat.not_lt.1 hj)]
    by_cases hjk : j = k
    · subst hjk
      simp [hj]
    · simp [hj, hjk]

/-- `r` holds the bits of `v` at the set positions of `m` below `i`, packed low in rising position, and zeros above:
`Gathered` at every width. -/
def GatheredBelow {n l : Nat} (i : Nat) (v m : BitVec n) (r : BitVec l) : Prop :=
  (∀ p, p < i → m.getLsbD p = true → r.getLsbD (countSet m p) = v.getLsbD p) ∧
  (∀ j, countSet m i ≤ j → r.getLsbD j = false)

theorem pextUpTo_succ {n : Nat} (v m : BitVec n) (i : Nat) :
    pextUpTo v m (i + 1) =
      if m.getLsbD i then
        ((pextUpTo v m i).1 + 1, setBit (pextUpTo v m i).2 (pextUpTo v m i).1 (v.getLsbD i))
      else pextUpTo v m i := rfl

theorem pextUpTo_fst {n : Nat} (v m : BitVec n) (i : Nat) : (pextUpTo v m i).1 = countSet m i := by
  induction i with
  | zero => rfl
  | succ i ih =>
    rw [countSet_succ, pextUpTo_succ, ← ih]
    cases h : m.getLsbD i <;> simp

theorem pextUpTo_gathered {n : Nat} (v m : BitVec n) (i : Nat) : GatheredBelow i v m (pextUpTo v m i).2 := by
  induction i with
  | zero => exact ⟨fun p hp => absurd hp (Nat.not_lt_zero p), fun _ _ => BitVec.getLsbD_zero⟩
  | succ i ih =>
    obtain ⟨hbits, hzeros⟩ := ih
    rw [GatheredBelow, countSet_succ, pextUpTo_succ, pextUpTo_fst]
    cases hset : m.getLsbD i with
    | false =>
      refine ⟨fun p hp hm => hbits p ?_ hm, hzeros⟩
      have hne : p ≠ i := by
        rintro rfl
        exact Bool.noConfusion (hset.symm.trans hm)
      omega
    | true =>
      refine ⟨fun p hp hm => ?_, fun j hj => ?_⟩ <;> rw [if_pos rfl, setBit_getLsbD]
      · obtain hlt | rfl := Nat.lt_succ_iff_lt_or_eq.1 hp
        · rw [if_neg (countSet_lt_of_set hm hlt).ne, hbits p hlt hm]
        · have hin : countSet m p < n := (countSet_le m p).trans_lt (BitVec.lt_of_getLsbD hm)
          rw [if_pos rfl, decide_eq_true hin, Bool.true_and]
      · rw [Bool.toNat_true] at hj
        rw [if_neg (by omega), hzeros j (by omega)]

theorem pext_gathered {n : Nat} (v m : BitVec n) : GatheredBelow n v m (pext v m) := pextUpTo_gathered v m n

/-- What is gathered rests on the value at the mask's positions alone (R78). -/
theorem GatheredBelow.eq_of_agree {n l i : Nat} {u v m : BitVec n} {q r : BitVec l} (hq : GatheredBelow i u m q)
    (hr : GatheredBelow i v m r) (h : ∀ p, m.getLsbD p = true → u.getLsbD p = v.getLsbD p) : q = r := by
  obtain ⟨hqbits, hqzeros⟩ := hq
  obtain ⟨hrbits, hrzeros⟩ := hr
  apply BitVec.eq_of_getLsbD_eq
  intro j _
  by_cases hj : j < countSet m i
  · obtain ⟨p, hp, hset, rfl⟩ := exists_set_of_lt_countSet hj
    rw [hqbits p hp hset, hrbits p hp hset, h p hset]
  · rw [hqzeros j (Nat.not_lt.1 hj), hrzeros j (Nat.not_lt.1 hj)]

/-- Gathering at an operating width is gathering the low bits of the whole registers (R57). -/
theorem GatheredBelow.gathered {n : Nat} {v m : Wide} {r : BitVec n} (hn : n ≤ 512)
    (h : GatheredBelow n (v.setWidth n) (m.setWidth n) r) : Gathered n v m (r.setWidth 512) := by
  obtain ⟨hbits, hzeros⟩ := h
  refine ⟨fun p hp hm => ?_, fun j hj => ?_⟩
  · have hin : countSet m p < 512 := (countSet_le m p).trans_lt (hp.trans_le hn)
    have hbit := hbits p hp (by simpa [hp] using hm)
    rw [countSet_setWidth m hp.le] at hbit
    simpa [hin, hp] using hbit
  · simp [hzeros j (by rwa [countSet_setWidth m le_rfl])]

/-! ### Scattering (R79) -/

theorem pdepUpTo_succ {n : Nat} (b m : BitVec n) (i : Nat) :
    pdepUpTo b m (i + 1) =
      if m.getLsbD i then
        ((pdepUpTo b m i).1 + 1, setBit (pdepUpTo b m i).2 i (b.getLsbD (pdepUpTo b m i).1))
      else pdepUpTo b m i := rfl

theorem pdepUpTo_fst {n : Nat} (b m : BitVec n) (i : Nat) : (pdepUpTo b m i).1 = countSet m i := by
  induction i with
  | zero => rfl
  | succ i ih =>
    rw [countSet_succ, pdepUpTo_succ, ← ih]
    cases h : m.getLsbD i <;> simp

/-- One bit of R79's loop after its first `i` positions. -/
theorem pdepUpTo_getLsbD {n : Nat} (b m : BitVec n) (i p : Nat) :
    (pdepUpTo b m i).2.getLsbD p = (decide (p < i) && m.getLsbD p && b.getLsbD (countSet m p)) := by
  induction i with
  | zero => exact BitVec.getLsbD_zero
  | succ i ih =>
    rw [pdepUpTo_succ, pdepUpTo_fst]
    by_cases hp : p = i
    · subst hp
      cases hset : m.getLsbD p with
      | false => simp [ih]
      | true => rw [if_pos rfl, setBit_getLsbD, if_pos rfl]; simp [BitVec.lt_of_getLsbD hset]
    · have hlt : p < i + 1 ↔ p < i := by omega
      cases hset : m.getLsbD i <;> simp [setBit_getLsbD, hp, hlt, ih]

/-- The bits of a scattered stream (R79). -/
theorem pdep_getLsbD {n : Nat} (b m : BitVec n) (p : Nat) :
    (pdep b m).getLsbD p = (m.getLsbD p && b.getLsbD (countSet m p)) := by
  rw [pdep, pdepUpTo_getLsbD]
  cases hset : m.getLsbD p with
  | false => simp
  | true => simp [BitVec.lt_of_getLsbD hset]

/-- Scattering at an operating width is scattering under the low bits of the whole mask register (R57). -/
theorem pdep_scattered {n : Nat} (hn : n ≤ 512) (b m : Wide) :
    Scattered n b m ((pdep (b.setWidth n) (m.setWidth n)).setWidth 512) := by
  refine ⟨fun p hp hm => ?_, fun p hp => ?_⟩ <;> rw [BitVec.getLsbD_setWidth, pdep_getLsbD]
  · have hin : p < 512 := hp.trans_le hn
    have hcount : countSet m p < n := (countSet_le m p).trans_lt hp
    simp [countSet_setWidth m hp.le, hin, hp, hm, hcount]
  · by_cases hlt : p < n
    · have hm : m.getLsbD p = false := Bool.eq_false_iff.2 fun hset => hp ⟨hlt, hset⟩
      simp [hm]
    · simp [hlt]

/-! ### Scatter by scanning (R79) -/

theorem clearBit_getLsbD {n : Nat} (v : BitVec n) (p j : Nat) :
    (v &&& ~~~(BitVec.twoPow n p)).getLsbD j = (v.getLsbD j && !decide (j = p)) := by
  by_cases hj : j < n
  · simp [hj]
  · simp [BitVec.getLsbD_of_ge v j (Nat.not_lt.1 hj)]

/-- Clearing a set bit takes one from the counts above it. -/
theorem countSet_clearBit {n : Nat} {v : BitVec n} {p : Nat} (hset : v.getLsbD p = true) (i : Nat) :
    countSet v i = countSet (v &&& ~~~(BitVec.twoPow n p)) i + (decide (p < i)).toNat := by
  induction i with
  | zero => rfl
  | succ i ih =>
    rw [countSet_succ, countSet_succ, ih, clearBit_getLsbD]
    obtain hlt | rfl | hgt := Nat.lt_trichotomy p i
    · have hne : i ≠ p := hlt.ne'
      simp [hlt, hne, Nat.lt_succ_of_lt hlt, Nat.add_right_comm]
    · simp [hset]
    · have hne : i ≠ p := hgt.ne
      have hns : ¬ p < i + 1 := by omega
      simp [hne, hns, Nat.not_lt.2 hgt.le]

/-- The scan from a working mask `work` and a result `r`, the next stream bit being `k`: the stream is scattered under
`work`, from its bit `k` on, beside what `r` holds. -/
theorem scanScatter_getLsbD {n : Nat} (hn : 64 ∣ n) (b : BitVec n) {fuel : Nat} {work : BitVec n}
    (hfuel : popcount work ≤ fuel) (r : BitVec n) (k j : Nat) :
    (scanScatter b fuel work r k).getLsbD j =
      (r.getLsbD j || (work.getLsbD j && b.getLsbD (k + countSet work j))) := by
  induction fuel generalizing work r k with
  | zero =>
    obtain rfl := (popcount_eq_zero_iff work).1 (Nat.le_zero.1 hfuel)
    simp [scanScatter]
  | succ fuel ih =>
    unfold scanScatter
    split
    case isTrue hzero => simp [hzero]
    case isFalse hne =>
      have hlow := tz_lowest hn work
      have hlt := hlow.lt_iff.2 hne
      have hset := hlow.set hlt
      have hpop : popcount (work &&& ~~~(BitVec.twoPow n (tz work))) ≤ fuel := by
        rw [popcount_eq_countSet] at hfuel ⊢
        rw [countSet_clearBit hset n, decide_eq_true hlt, Bool.toNat_true] at hfuel
        omega
      have hplaced : (if b.getLsbD k then r ||| BitVec.twoPow n (tz work) else r).getLsbD j =
          (r.getLsbD j || (b.getLsbD k && decide (j = tz work))) := by
        cases b.getLsbD k <;> simp [BitVec.getLsbD_twoPow, hlt, eq_comm]
      rw [ih hpop, hplaced, clearBit_getLsbD, countSet_clearBit hset j]
      obtain hbelow | rfl | habove := Nat.lt_trichotomy j (tz work)
      · simp [hlow.clear j hbelow, hbelow.ne]
      · have hfirst : countSet (work &&& ~~~(BitVec.twoPow n (tz work))) (tz work) = 0 :=
          countSet_eq_zero_of_clear fun i hi => by simp [hlow.clear i hi]
        simp [hset, hfirst]
      · have hnext : k + 1 + countSet (work &&& ~~~(BitVec.twoPow n (tz work))) j =
            k + (countSet (work &&& ~~~(BitVec.twoPow n (tz work))) j + 1) := by omega
        simp [habove, habove.ne', hnext]

/-! ### PEXT and PDEP: the checks of a mask under a budget (R85) -/

/-- The mask checks of PEXT and PDEP by count, a budget of 0 stating none (R59). -/
theorem maskTable_cases (n b : Nat) (m : Wide) :
    (countSet m n = 0 ∧ maskTable n (if b = 0 then n else b) m = 1) ∨
    (countSet m n ≠ 0 ∧ b ≠ 0 ∧ b < countSet m n ∧ maskTable n (if b = 0 then n else b) m = 2) ∨
    (countSet m n ≠ 0 ∧ (b = 0 ∨ countSet m n ≤ b) ∧ maskTable n (if b = 0 then n else b) m = 0) := by
  have hle := countSet_le m n
  unfold maskTable
  by_cases h0 : countSet m n = 0
  · exact .inl ⟨h0, if_pos h0⟩
  · rw [if_neg h0]
    by_cases hb : b = 0
    · exact .inr (.inr ⟨h0, .inl hb, by rw [if_pos hb, if_neg (Nat.not_lt.2 hle)]⟩)
    · rw [if_neg hb]
      by_cases hlt : b < countSet m n
      · exact .inr (.inl ⟨h0, hb, hlt, if_pos hlt⟩)
      · exact .inr (.inr ⟨h0, .inr (Nat.not_lt.1 hlt), if_neg hlt⟩)

/-- A command that passes its checks and pulls no word completes. -/
theorem exec_without_pulls {i : Instr} {s : State} (hf : faultTable i s = 0) (hp : pullsOnSuccess i s = 0) :
    exec i s = .next (effect i s [] s) := by
  have hpulls : pullTable i s = 0 := (pullTable_of_success hf).trans hp
  rw [exec_completing hf (hpulls ▸ answers_zero s), hpulls, afterPulls_zero, upcoming_zero]

/-- How a command ends that checks a mask under a budget and pulls no word. -/
theorem exec_masked {i : Instr} {n b : Nat} {m : Wide} {s : State}
    (hf : faultTable i s = maskTable n (if b = 0 then n else b) m) (hp : pullsOnSuccess i s = 0) :
    ∃ t, exec i s = .next t ∧
      (countSet m n = 0 → Faulted 1 s t) ∧
      (b ≠ 0 → b < countSet m n → Faulted 2 s t) ∧
      (countSet m n ≠ 0 → (b = 0 ∨ countSet m n ≤ b) → t = effect i s [] s) := by
  obtain ⟨h0, hcode⟩ | ⟨h0, hb, hlt, hcode⟩ | ⟨h0, hle, hcode⟩ := maskTable_cases n b m <;> rw [hcode] at hf
  · obtain ⟨t, ht, hfaulted⟩ := exec_faulted (hf.trans_ne (by decide))
    rw [hf] at hfaulted
    exact ⟨t, ht, fun _ => hfaulted, fun _ hlt => absurd hlt (by omega), fun hne => absurd h0 hne⟩
  · obtain ⟨t, ht, hfaulted⟩ := exec_faulted (hf.trans_ne (by decide))
    rw [hf] at hfaulted
    exact ⟨t, ht, fun hz => absurd hz h0, fun _ _ => hfaulted, fun _ hle => by omega⟩
  · exact ⟨_, exec_without_pulls hf hp, fun hz => absurd hz h0, fun hb hlt => by omega, fun _ _ => rfl⟩

theorem opBits_le (ws : Width) : opBits ws ≤ 512 := by cases ws <;> decide

/-! ### The obligations of the BitMath functions and commands -/

/-- Settles O28, the words one by one. -/
theorem populationCountLaw : Obligations.PopulationCountLaw := by
  refine ⟨fun n v => ⟨popcount_eq_countSet v, popcount_le v⟩, fun k v => ?_,
    fun n => (popcount_eq_zero_iff _).2 rfl⟩
  rw [sum_popcount_words, popcount_eq_countSet]

/-- Settles O29: each of the three forms names the position of the lowest set bit. -/
theorem trailingZerosChainAcrossWords : Obligations.TrailingZerosChainAcrossWords := by
  have hsplit {n k : Nat} {v : BitVec n} (h : LowestBelow v n k) :
      (v = 0 → k = n) ∧ (v ≠ 0 → v.getLsbD k = true ∧ ∀ i, i < k → v.getLsbD i = false) :=
    ⟨fun hz => Nat.le_antisymm h.le (Nat.not_lt.1 fun hk => h.lt_iff.1 hk hz),
      fun hne => ⟨h.set (h.lt_iff.2 hne), h.clear⟩⟩
  refine ⟨fun x => (hsplit (tz64_lowest x)).symm, fun k v => ?_⟩
  have hlow := tz_lowest (Nat.dvd_mul_right 64 k) v
  refine ⟨(hsplit hlow).1, (hsplit hlow).2, fun j hj hw hzero => ?_⟩
  exact hlow.unique (lowest_of_word hj (clear_of_words_zero hzero) hw)

/-- Settles O30, from the bits gathered under the mask. -/
theorem extractGathersUnderTheMask : Obligations.ExtractGathersUnderTheMask := by
  intro n v m
  obtain ⟨hbits, hzeros⟩ := pext_gathered v m
  refine ⟨hbits, hzeros, fun u hu => ?_, ?_⟩
  · refine (pext_gathered u m).eq_of_agree (pext_gathered v m) fun p hm => ?_
    have hbit := congrArg (fun x => x.getLsbD p) hu
    simpa [hm] using hbit
  · refine BitVec.eq_of_getLsbD_eq fun j _ => ((pext_gathered v 0).2 j ?_).trans BitVec.getLsbD_zero.symm
    have hcount : countSet (0 : BitVec n) n = 0 := countSet_eq_zero_of_clear fun _ _ => BitVec.getLsbD_zero
    omega

/-- Settles O31, bit by bit. -/
theorem scatterEqualsItsScanningForm : Obligations.ScatterEqualsItsScanningForm := by
  refine ⟨fun n b m => ⟨fun i _ hm => ?_, fun i hm => ?_, fun c hc => ?_⟩, fun k b m => ?_⟩
  · rw [pdep_getLsbD, hm, Bool.true_and]
  · rw [pdep_getLsbD, hm, Bool.false_and]
  · refine BitVec.eq_of_getLsbD_eq fun i hi => ?_
    rw [pdep_getLsbD, pdep_getLsbD]
    cases hm : m.getLsbD i with
    | false => rfl
    | true => rw [hc _ (countSet_lt_of_set hm hi)]
  · refine BitVec.eq_of_getLsbD_eq fun j _ => ?_
    rw [scanScatter_getLsbD (Nat.dvd_mul_right 64 k) b (popcount_le m), pdep_getLsbD, Nat.zero_add]
    simp

/-- Settles O32: the bit numbered `j` under the mask goes to bit `j` of the extract, and back. -/
theorem extractScatterInverseLaw : Obligations.ExtractScatterInverseLaw := by
  intro n v m
  refine ⟨BitVec.eq_of_getLsbD_eq fun p hp => ?_, fun j => ?_⟩
  · rw [pdep_getLsbD, BitVec.getLsbD_and, Bool.and_comm]
    cases hm : m.getLsbD p with
    | false => simp
    | true => rw [(pext_gathered v m).1 p hp hm]
  · obtain ⟨hbits, hzeros⟩ := pext_gathered (pdep v m) m
    by_cases hj : j < countSet m n
    · obtain ⟨p, hp, hm, rfl⟩ := exists_set_of_lt_countSet hj
      rw [hbits p hp hm, pdep_getLsbD, hm, decide_eq_true hj]
    · rw [hzeros j (Nat.not_lt.1 hj), decide_eq_false hj, Bool.false_and]

/-- Settles O39: the command counts the bits of the low part of the register. -/
theorem popcntCountsTheBitsBelowTheWidth : Obligations.PopcntCountsTheBitsBelowTheWidth := by
  intro ws rd rs1 s
  refine ⟨_, rfl, writeResult_wrote rd _ s, ?_⟩
  rw [writeResult_getW_same, readAt, popcount_setWidth, widthOf_eq_opBits]

/-- Settles O40: the lowest set bit of the low part of the register is that of the register below the width. -/
theorem tzcntFindsTheLowestSetBit : Obligations.TzcntFindsTheLowestSetBit := by
  intro ws rd rs1 s
  have hlow : LowestBelow (s.getW rs1) (widthOf ws) (tz (readAt ws rs1 s)) := by
    rw [widthOf_eq_opBits]
    exact (tz_lowest (dvd_opBits ws) _).of_setWidth
  exact ⟨_, _, rfl, writeResult_wrote rd _ s, writeResult_getW_same s rd _, hlow.le, hlow.clear, hlow.set⟩

/-- Settles O41, by the mask checks. -/
theorem pextGathersOrFaults : Obligations.PextGathersOrFaults := by
  intro ws rd rs1 rs2 b s
  obtain ⟨t, ht, hzero, hwide, hdone⟩ := exec_masked (i := .pext ws rd rs1 rs2 b) rfl rfl
  refine ⟨t, ht, hzero, hwide, fun hne hb => ?_⟩
  obtain rfl := hdone hne hb
  rw [effect, writeResult_getW_same, widthOf_eq_opBits]
  exact ⟨writeResult_wrote rd _ s, (pext_gathered _ _).gathered (opBits_le ws)⟩

/-- Settles O42, by the mask checks. -/
theorem pdepScattersOrFaults : Obligations.PdepScattersOrFaults := by
  intro ws rd rs1 rs2 b s
  obtain ⟨t, ht, hzero, hwide, hdone⟩ := exec_masked (i := .pdep ws rd rs1 rs2 b) rfl rfl
  refine ⟨t, ht, hzero, hwide, fun hne hb => ?_⟩
  obtain rfl := hdone hne hb
  rw [effect, writeResult_getW_same, widthOf_eq_opBits]
  exact ⟨writeResult_wrote rd _ s, pdep_scattered (opBits_le ws) _ _⟩

end Sys2Proof.Claims

/-!
PROOFS. The statements about the Narrower commands (41_narrower.md): one pulled word cut, gathered or folded, and the
rounds of CONSTRUCT.
-/

namespace Sys2Proof.Claims

open Sys2Proof.Machine

/-! ### How a command ends that writes a register -/

theorem exec_faults {i : Instr} {s : State} {c : BitVec 4} (hf : faultTable i s = c) (hc : c ≠ 0) :
    ∃ t, exec i s = .next t ∧ Faulted c s t := by
  subst hf
  exact exec_faulted hc

/-- What the completion of a command writes, with the pulls before it (R57, R61). -/
theorem writeResult_afterPulls_wrote (rd : RegNum) (v : Wide) (n : Nat) (s : State) :
    Wrote rd n s (writeResult rd v (afterPulls n s)) where
  others _ := writeResult_getW_other v
  response := by simp [Responded, afterPulls]
  feistel := ⟨rfl, rfl, rfl, rfl, rfl⟩
  record := ⟨rfl, rfl, rfl⟩
  pulled := ⟨rfl, rfl⟩
  port := ⟨rfl, rfl, rfl⟩

/-- A command that passes its checks, gets its words and completes by writing `v` to `W[rd]`. -/
theorem exec_writes {i : Instr} {s : State} {n : Nat} {xs : List Word} {rd : RegNum} {v : Wide}
    (hf : faultTable i s = 0) (hp : pullsOnSuccess i s = n) (hxs : upcoming n s.source = xs) (hlen : xs.length = n)
    (he : effect i s xs (afterPulls n s) = writeResult rd v (afterPulls n s)) :
    ∃ t, exec i s = .next t ∧ Wrote rd n s t ∧ t.getW rd = v := by
  have hpulls : pullTable i s = n := (pullTable_of_success hf).trans hp
  have ha : s.Answers n := (answers_iff_upcoming s n).2 (hxs ▸ hlen)
  refine ⟨_, ?_, writeResult_afterPulls_wrote rd v n s, writeResult_getW_same _ rd v⟩
  rw [exec_completing hf (hpulls.symm ▸ ha), hpulls, hxs, he]

/-! ### The fold of SPONGE (R99, R100) -/

/-- A word in a wide register keeps its bits. -/
theorem wide_getLsbD (x : Word) (i : Nat) : (x.setWidth 512).getLsbD i = x.getLsbD i := by
  by_cases hi : i < 512
  · simp [hi]
  · simp [hi, BitVec.getLsbD_of_ge x i (by omega)]

theorem fold_getLsbD (x : Word) {w : Nat} (h : w ≤ 64) (i : Nat) :
    (fold x w).getLsbD i = (decide (i < w) && (x.getLsbD (w + i) ^^ x.getLsbD i)) := by
  by_cases hi : i < w
  · have hin : i < 64 := hi.trans_le h
    simp [fold, hi, hin]
  · simp [fold, hi]

theorem toNat_fold (x : Word) {w : Nat} (h : w ≤ 64) :
    (fold x w).toNat = (x.toNat / 2 ^ w % 2 ^ w) ^^^ (x.toNat % 2 ^ w) := by
  have hlt : (x.extractLsb' w w ^^^ x.extractLsb' 0 w).toNat < 2 ^ 64 :=
    (BitVec.isLt _).trans_le (Nat.pow_le_pow_right Nat.two_pos h)
  rw [fold, BitVec.toNat_setWidth, Nat.mod_eq_of_lt hlt]
  simp [Nat.shiftRight_eq_div_pow]

/-- The exclusive or of the `n` bits of `x` at `i`, `i + w`, `i + 2w`, ... (R100). -/
def residueParity (w n : Nat) (x : Word) (i : Nat) : Bool :=
  (List.range n).foldl (fun a j => a ^^ x.getLsbD (i + w * j)) false

theorem residueParity_succ (w n : Nat) (x : Word) (i : Nat) :
    residueParity w (n + 1) x i = (residueParity w n x i ^^ x.getLsbD (i + w * n)) := by
  simp [residueParity, List.range_succ]

theorem residueParity_add (w n k : Nat) (x : Word) (i : Nat) :
    residueParity w (n + k) x i = (residueParity w n x i ^^ residueParity w k x (i + w * n)) := by
  induction k with
  | zero => simp [residueParity]
  | succ k ih =>
    rw [← Nat.add_assoc, residueParity_succ, residueParity_succ, ih, Nat.mul_add, Nat.add_assoc, Bool.xor_assoc]

/-- The parities of a folded word are those of the word before over twice the positions (R99). -/
theorem residueParity_fold {w c n : Nat} (x : Word) {i : Nat} (hi : i < w) (hn : w * n ≤ c) (hc : c ≤ 64) :
    residueParity w n (fold x c) i = (residueParity w n x i ^^ residueParity w n x (i + c)) := by
  induction n with
  | zero => rfl
  | succ n ih =>
    rw [Nat.mul_succ] at hn
    have hin : i + w * n < c := by omega
    rw [residueParity_succ, residueParity_succ, residueParity_succ, ih (by omega), fold_getLsbD x hc,
      decide_eq_true hin, Bool.true_and, Nat.add_right_comm i c, Nat.add_comm c]
    simp only [Bool.xor_assoc, Bool.xor_comm, Bool.xor_left_comm]

/-- Folding from the width `w * 2^e` down to `w` leaves the parities of the positions congruent modulo `w`. -/
theorem spongeFrom_getLsbD {w e fuel : Nat} {x : Word} (hw : 0 < w) (hfuel : e ≤ fuel) (hle : w * 2 ^ e ≤ 64)
    (hx : ZeroAbove (w * 2 ^ e) x) (i : Nat) :
    (spongeFrom w fuel (w * 2 ^ e) x).getLsbD i = (decide (i < w) && residueParity w (2 ^ e) x i) := by
  induction e generalizing fuel x with
  | zero =>
    have hstop : spongeFrom w fuel (w * 2 ^ 0) x = x := by cases fuel <;> simp [spongeFrom]
    rw [hstop]
    by_cases hi : i < w
    · simp [hi, residueParity]
    · simp [hi, hx i (by omega)]
  | succ e ih =>
    obtain ⟨fuel, rfl⟩ := Nat.exists_eq_add_of_le' (Nat.one_le_of_lt hfuel)
    have hdouble : w * 2 ^ (e + 1) = w * 2 ^ e + w * 2 ^ e := by rw [Nat.pow_succ, ← Nat.mul_assoc, Nat.mul_two]
    have hpos : w ≤ w * 2 ^ e := Nat.le_mul_of_pos_right w (Nat.two_pow_pos e)
    have hhalf : w * 2 ^ (e + 1) / 2 = w * 2 ^ e := by omega
    have hc : w * 2 ^ e ≤ 64 := by omega
    have hzero : ZeroAbove (w * 2 ^ e) (fold x (w * 2 ^ e)) := fun j hj => by
      rw [fold_getLsbD x hc, decide_eq_false (Nat.not_lt.2 hj), Bool.false_and]
    rw [spongeFrom, if_pos (by omega), hhalf, ih (Nat.le_of_succ_le_succ hfuel) hc hzero]
    by_cases hi : i < w
    · rw [residueParity_fold x hi le_rfl hc, Nat.pow_succ, Nat.mul_two, residueParity_add]
    · simp [hi]

/-- Each width of SPONGE is 64 halved at most six times (R100). -/
theorem spongeWidth_halves {w : Nat} (h : w ∈ spongeWidths) :
    ∃ e, e ≤ 6 ∧ w * 2 ^ e = 64 ∧ 64 / w = 2 ^ e ∧ 0 < w := by
  revert w
  decide

theorem sponge_getLsbD {w : Nat} (h : w ∈ spongeWidths) (x : Word) (i : Nat) :
    (sponge x w).getLsbD i = (decide (i < w) && residueParity w (64 / w) x i) := by
  obtain ⟨e, he, h64, hrounds, hw⟩ := spongeWidth_halves h
  have hfolded := spongeFrom_getLsbD hw he h64.le (zeroAbove_of_le h64.ge x) i
  rwa [h64, ← hrounds] at hfolded

/-! ### Words under a mask (R98, R105) -/

/-- A word's extract, said of the whole mask register. -/
theorem gathered_pext_word (x : Word) (m : Wide) :
    Gathered 64 (BitVec.ofNat 512 x.toNat) m ((pext x (m.setWidth 64)).setWidth 512) := by
  have hx : (BitVec.ofNat 512 x.toNat).setWidth 64 = x := by simp
  refine GatheredBelow.gathered (by decide) ?_
  rw [hx]
  exact pext_gathered x _

theorem pdep_pext {n : Nat} (x m : BitVec n) : pdep (pext x m) m = x &&& m := (extractScatterInverseLaw n x m).1

/-! ### The rounds of CONSTRUCT (R103) -/

theorem accumulate_concat (m : Word) (p : Nat) (xs : List Word) (x : Word) :
    accumulate m p (xs ++ [x]) = accumulate m p xs <<< p ||| pext x m := by
  simp [accumulate]

/-- After `k` rounds of `p` bits there are zeros from bit `k * p` on. -/
theorem accumulate_zeroAbove {m : Word} {p : Nat} (hp : countSet m 64 ≤ p) (xs : List Word) :
    ZeroAbove (xs.length * p) (accumulate m p xs) := by
  induction xs using List.reverseRecOn with
  | nil => exact fun _ _ => BitVec.getLsbD_zero
  | append_singleton xs x ih =>
    intro j hj
    rw [List.length_append, List.length_singleton, Nat.succ_mul] at hj
    have hold : (accumulate m p xs).getLsbD (j - p) = false := ih _ (by omega)
    have hnew : (pext x m).getLsbD j = false := (pext_gathered x m).2 j (by omega)
    simp [accumulate_concat, hold, hnew]

/-- The rounds after a round shift its group up, `p` bits each. -/
theorem accumulate_getLsbD {m : Word} {p : Nat} (hp : countSet m 64 ≤ p) {xs : List Word} (hle : xs.length * p ≤ 64)
    {i : Nat} {x : Word} (hx : xs[i]? = some x) {b : Nat} (hb : b < p) :
    (accumulate m p xs).getLsbD ((xs.length - 1 - i) * p + b) = (pext x m).getLsbD b := by
  induction xs using List.reverseRecOn with
  | nil => cases hx
  | append_singleton xs y ih =>
    rw [List.length_append, List.length_singleton, Nat.succ_mul] at hle
    rw [accumulate_concat, List.length_append, List.length_singleton, Nat.add_sub_cancel]
    by_cases hi : i < xs.length
    · rw [List.getElem?_append_left hi] at hx
      have hshift : (xs.length - i) * p = (xs.length - 1 - i) * p + p := by
        rw [← Nat.succ_mul]
        congr 1
        omega
      have hin : (xs.length - i) * p ≤ xs.length * p := Nat.mul_le_mul_right p (Nat.sub_le _ _)
      have hnew : (pext y m).getLsbD ((xs.length - i) * p + b) = false := (pext_gathered y m).2 _ (by omega)
      have hback : (xs.length - i) * p + b - p = (xs.length - 1 - i) * p + b := by omega
      have hword : (xs.length - i) * p + b < 64 := by omega
      have hlow : ¬ (xs.length - i) * p + b < p := by omega
      rw [BitVec.getLsbD_or, BitVec.getLsbD_shiftLeft, hnew, hback, ih (by omega) hx]
      simp [hword, hlow]
    · rw [List.getElem?_append_right (Nat.not_lt.1 hi)] at hx
      obtain rfl := List.mem_singleton.1 (List.mem_of_getElem? hx)
      simp [Nat.sub_eq_zero_of_le (Nat.not_lt.1 hi), hb]

/-- CONSTRUCT that passes its checks (R104) stays within a word and has whole rounds. -/
theorem constructTable_passed {t : Nat} {m : Wide} (h : constructTable t m = 0) :
    t ≤ 64 ∧ t % countSet m 64 = 0 := by
  unfold constructTable at h
  split_ifs at h with h0 hp ht hd
  case neg => exact ⟨Nat.not_lt.1 ht, not_not.1 hd⟩
  all_goals exact absurd h (by decide)

/-- The group of a round in the accumulated value, at the width `n` of the register it stands in: the extract. -/
theorem accumulate_group {m : Word} {p n : Nat} (hp : countSet m 64 ≤ p) {xs : List Word} (hle : xs.length * p ≤ 64)
    (hn : 64 ≤ n) {i : Nat} {x : Word} (hx : xs[i]? = some x) :
    (((accumulate m p xs).setWidth n).extractLsb' ((xs.length - 1 - i) * p) p).setWidth n =
      (pext x m).setWidth n := by
  have hi := (List.getElem?_eq_some_iff.1 hx).1
  refine BitVec.eq_of_getLsbD_eq fun b _ => ?_
  by_cases hb : b < p
  · have hin : (xs.length - 1 - i) * p + p ≤ xs.length * p := by
      rw [← Nat.succ_mul]
      exact Nat.mul_le_mul_right p (by omega)
    have hbound : (xs.length - 1 - i) * p + b < n := by omega
    simp [hb, hbound, accumulate_getLsbD hp hle hx hb]
  · simp [hb, (pext_gathered x m).2 b (by omega)]

/-! ### Lanes and parts (R41, R106) -/

/-- Lane `j` of packed words is word `j`, zero where there is none. -/
theorem packLanes_lane (xs : List Word) {j : Nat} (hj : j < 8) :
    (packLanes xs).extractLsb' (64 * j) 64 = xs.getD j 0 := by
  refine BitVec.eq_of_getLsbD_eq fun b hb => ?_
  rw [BitVec.getLsbD_extractLsb', decide_eq_true hb, Bool.true_and]
  induction xs generalizing j with
  | nil => simp [packLanes]
  | cons x xs ih =>
    have hbound : 64 * j + b < 512 := by omega
    cases j with
    | zero =>
      have hin : b < 512 := by omega
      simp [packLanes, hb, hin]
    | succ j =>
      have hx : x.getLsbD (64 * (j + 1) + b) = false := BitVec.getLsbD_of_ge x _ (by omega)
      have hback : 64 * (j + 1) + b - 64 = 64 * j + b := by omega
      have hlow : ¬ 64 * (j + 1) + b < 64 := by omega
      rw [packLanes, BitVec.getLsbD_or, BitVec.getLsbD_setWidth, BitVec.getLsbD_shiftLeft, hx, hback,
        ih (Nat.lt_of_succ_lt hj)]
      simp [hlow, hbound]

theorem parts_getD (x : Word) (width k i j : Nat) :
    (parts x width k i).getD j 0 = if j < k then (x.extractLsb' (width * (i + j)) width).setWidth 64 else 0 := by
  induction k generalizing i j with
  | zero => rfl
  | succ k ih =>
    cases j with
    | zero => rfl
    | succ j => simp only [parts, List.getD_cons_succ, ih, Nat.succ_add_eq_add_succ, Nat.succ_lt_succ_iff]

/-- A part that lies in the low word, by arithmetic on the whole register. -/
theorem toNat_part (v : Wide) {start width : Nat} (h : start + width ≤ 64) :
    (((v.setWidth 64).extractLsb' start width).setWidth 64).toNat = v.toNat / 2 ^ start % 2 ^ width := by
  have hpart : (v.setWidth 64).extractLsb' start width = v.extractLsb' start width := by
    refine BitVec.eq_of_getLsbD_eq fun b hb => ?_
    have hin : start + b < 64 := by omega
    simp [hin]
  have hlt : (v.extractLsb' start width).toNat < 2 ^ 64 :=
    (BitVec.isLt _).trans_le (Nat.pow_le_pow_right Nat.two_pos (by omega))
  rw [hpart, BitVec.toNat_setWidth, Nat.mod_eq_of_lt hlt, BitVec.extractLsb'_toNat, Nat.shiftRight_eq_div_pow]

/-! ### The obligations of the Narrower commands -/

/-- Settles O14, check by check. -/
theorem constructChecksInOrder : Obligations.ConstructChecksInOrder := by
  rintro rd rs2 t s p rfl
  refine ⟨fun h0 => ?_, fun hp h0 => ?_, fun ht h0 hp => ?_, fun hd h0 hp ht => ?_, fun h0 hp ht hd ha => ?_⟩
  · exact exec_faults (if_pos h0) (by decide)
  · exact exec_faults ((if_neg h0).trans (if_pos hp)) (by decide)
  · exact exec_faults ((if_neg h0).trans <| (if_neg hp).trans (if_pos ht)) (by decide)
  · exact exec_faults ((if_neg h0).trans <| (if_neg hp).trans <| (if_neg ht).trans (if_pos hd)) (by decide)
  · have hf : faultTable (.construct rd rs2 t) s = 0 :=
      (if_neg h0).trans <| (if_neg hp).trans <| (if_neg ht).trans (if_neg (not_not.2 hd))
    have hpulls : pullTable (.construct rd rs2 t) s = t / countSet (s.getW rs2) 64 := if_neg (not_not.2 hf)
    have hexec := exec_completing hf (hpulls ▸ ha)
    obtain ⟨d, hresp⟩ := (effect_completed _ s _ (afterPulls (pullTable _ s) s)).response
    exact ⟨_, d, hexec, hresp⟩

/-- Settles O43, by the bit-count check. -/
theorem truncTakesTheLowBits : Obligations.TruncTakesTheLowBits := by
  refine fun rd n s => ⟨fun h1 h63 x hx => ?_, fun hn => exec_faults (if_pos (by omega)) (by decide)⟩
  obtain ⟨t, ht, hwrote, hv⟩ := exec_writes (i := .trunc rd n) (if_neg (by omega)) rfl hx rfl rfl
  refine ⟨t, ht, hwrote, ?_⟩
  rw [hv, List.getD_cons_zero, ← BitVec.ofNat_toNat, BitVec.extractLsb'_toNat, Nat.shiftRight_zero]

/-- Settles O44, by the bit-count check. -/
theorem shiftTakesTheHighBits : Obligations.ShiftTakesTheHighBits := by
  refine fun rd n s => ⟨fun h1 h63 x hx => ?_, fun hn => exec_faults (if_pos (by omega)) (by decide)⟩
  obtain ⟨t, ht, hwrote, hv⟩ := exec_writes (i := .shift rd n) (if_neg (by omega)) rfl hx rfl rfl
  refine ⟨t, ht, hwrote, ?_⟩
  rw [hv, List.getD_cons_zero, ← BitVec.ofNat_toNat, BitVec.toNat_ushiftRight, Nat.shiftRight_eq_div_pow]

/-- Settles O45: the four commands differ in the budget of their mask check alone. -/
theorem mextGathersFromAPulledWord : Obligations.MextGathersFromAPulledWord := by
  intro rd rs2 s i target hi
  obtain ⟨hf, hp, he⟩ : faultTable i s = maskTable 64 target (s.getW rs2) ∧ pullsOnSuccess i s = 1 ∧
      ∀ x s1, effect i s [x] s1 = writeResult rd ((pext x (readLow rs2 s)).setWidth 512) s1 := by
    simp only [List.mem_cons, Prod.mk.injEq, List.not_mem_nil, or_false] at hi
    obtain ⟨rfl, rfl⟩ | ⟨rfl, rfl⟩ | ⟨rfl, rfl⟩ | ⟨rfl, rfl⟩ := hi <;> exact ⟨rfl, rfl, fun _ _ => rfl⟩
  refine ⟨fun h0 => ?_, fun hlt => ?_, fun h0 hle x hx => ?_⟩
  · exact exec_faults (hf.trans (if_pos h0)) (by decide)
  · exact exec_faults (hf.trans ((if_neg (by omega)).trans (if_pos hlt))) (by decide)
  · have hpass : faultTable i s = 0 := hf.trans ((if_neg h0).trans (if_neg (Nat.not_lt.2 hle)))
    obtain ⟨t, ht, hwrote, hv⟩ := exec_writes hpass hp hx rfl (he x _)
    exact ⟨t, ht, hwrote, hv ▸ gathered_pext_word x (s.getW rs2)⟩

/-- Settles O46, the third part bit by bit. -/
theorem foldXorsTheHalves : Obligations.FoldXorsTheHalves := by
  intro x w hw
  have hle : w ≤ 64 := by omega
  refine ⟨toNat_fold x hle, ?_, BitVec.eq_of_getLsbD_eq fun i _ => ?_⟩
  · rw [toNat_fold x hle]
    exact Nat.xor_lt_two_pow (Nat.mod_lt _ (Nat.two_pow_pos w)) (Nat.mod_lt _ (Nat.two_pow_pos w))
  · rw [fold_getLsbD _ hle, fold_getLsbD _ hle]
    by_cases hi : i < w
    · have hin : i < 64 := by omega
      have hsum : w + i < 64 := by omega
      simp [hi, hin, hsum, Bool.xor_comm]
    · simp [hi]

/-- Settles O47: folding from 64 bits down to `w` leaves the parities modulo `w`. -/
theorem spongeFoldsEveryBitIn : Obligations.SpongeFoldsEveryBitIn := by
  refine fun rd w s => ⟨fun hw x hx => ?_, fun hw => exec_faults (if_neg (by simpa using hw)) (by decide)⟩
  obtain ⟨t, ht, hwrote, hv⟩ := exec_writes (i := .sponge rd w) (if_pos (by simpa using hw)) rfl hx rfl rfl
  refine ⟨t, ht, hwrote, fun i => ?_⟩
  rw [hv, List.getD_cons_zero, wide_getLsbD]
  exact sponge_getLsbD hw x i

/-- Settles O48, group by group. -/
theorem constructAccumulatesItsRounds : Obligations.ConstructAccumulatesItsRounds := by
  rintro rd rs2 t s p k xs hp hf rfl hxs hlen
  have hpop : popcount (readLow rs2 s) = p := (popcount_setWidth _ 64).trans hp.symm
  have hcount : countSet (readLow rs2 s) 64 = p := (popcount_eq_countSet _).symm.trans hpop
  obtain ⟨u, hu, hwrote, hv⟩ := exec_writes (i := .construct rd rs2 t) hf (congrArg (t / ·) hpop) hxs hlen rfl
  obtain ⟨ht, hdvd⟩ := constructTable_passed hf
  rw [← hp] at hdvd
  have htotal : xs.length * p = t := hlen ▸ Nat.div_mul_cancel (Nat.dvd_of_mod_eq_zero hdvd)
  refine ⟨u, hu, hwrote, fun i x hx => ?_, fun j hj => ?_⟩
  · have hgroup := accumulate_group (n := 512) hcount.le (htotal.trans_le ht) (by decide) hx
    rw [hv, hpop, ← hlen, hgroup]
    exact gathered_pext_word x (s.getW rs2)
  · rw [hv, hpop]
    exact zeroAbove_setWidth (accumulate_zeroAbove hcount.le xs) j (htotal.trans_le hj)

/-- Settles O49, group by group. -/
theorem constructRoundTrip : Obligations.ConstructRoundTrip := by
  rintro m xs p hp - hle i x hx
  have hgroup := accumulate_group hp.ge hle le_rfl hx
  rw [BitVec.setWidth_eq, BitVec.setWidth_eq] at hgroup
  rw [hgroup]
  exact ⟨rfl, pdep_pext x m⟩

/-- Settles O50, lane by lane. -/
theorem sliceCutsLowWordFirst : Obligations.SliceCutsLowWordFirst := by
  intro rd rs1 s i k hi
  obtain ⟨hf, hp, he, hk⟩ : faultTable i s = 0 ∧ pullsOnSuccess i s = 0 ∧
      (∀ s1, effect i s [] s1 = writeResult rd (packLanes (parts (readLow rs1 s) (64 / k) k 0)) s1) ∧
      64 / k * k = 64 := by
    simp only [List.mem_cons, Prod.mk.injEq, List.not_mem_nil, or_false] at hi
    obtain ⟨rfl, rfl⟩ | ⟨rfl, rfl⟩ | ⟨rfl, rfl⟩ := hi <;> exact ⟨rfl, rfl, fun _ => rfl, rfl⟩
  obtain ⟨t, ht, hwrote, hv⟩ := exec_writes hf hp rfl rfl (he _)
  refine ⟨t, ht, hwrote, fun j hj => ?_⟩
  rw [hv, packLanes_lane _ hj, parts_getD, Nat.zero_add]
  by_cases hjk : j < k
  · have hin : 64 / k * j + 64 / k ≤ 64 := by
      rw [← Nat.mul_succ]
      exact (Nat.mul_le_mul_left _ hjk).trans_eq hk
    rw [if_pos hjk, if_pos hjk]
    exact toNat_part _ hin
  · rw [if_neg hjk, if_neg hjk]
    rfl

end Sys2Proof.Claims

/-!
PROOFS. The statements about the Widener commands (42_widener.md): pulled words laid lane by lane, the chain of the mixing
function, and one word's bits spread under a wide mask.
-/

namespace Sys2Proof.Claims

open Sys2Proof.Machine

/-! ### Lanes and streams of the Widener (R118, R120) -/

theorem opWords_eq_widthOf_div (ws : Width) : opWords ws = widthOf ws / 64 := congrArg (· / 64) (widthOf_eq_opBits ws).symm

/-- Word `j` of the chain is the mixing function applied `j` times, and there is none from word `n` on. -/
theorem mixChain_getD (mix : Word → Word) (x : Word) (n j : Nat) :
    (mixChain mix x n).getD j 0 = if j < n then mix^[j] x else 0 := by
  induction n generalizing x j with
  | zero => rfl
  | succ n ih =>
    cases j with
    | zero => rfl
    | succ j => simp only [mixChain, List.getD_cons_succ, ih, Nat.succ_lt_succ_iff, Function.iterate_succ_apply]

/-- A word's bits scattered at an operating width, said of the whole mask register. -/
theorem scattered_pdep_word {n : Nat} (hn : n ≤ 512) (x : Word) (m : Wide) :
    Scattered n (BitVec.ofNat 512 x.toNat) m ((pdep (x.setWidth n) (m.setWidth n)).setWidth 512) := by
  have hstream : (BitVec.ofNat 512 x.toNat).setWidth n = x.setWidth n := by
    rw [BitVec.ofNat_toNat, BitVec.setWidth_setWidth_of_le x hn]
  exact hstream ▸ pdep_scattered hn (BitVec.ofNat 512 x.toNat) m

/-! ### The obligations of the Widener commands -/

/-- Settles O51, lane by lane. -/
theorem concatPutsTheFirstWordLowest : Obligations.ConcatPutsTheFirstWordLowest := by
  intro ws rd s xs hxs hlen
  obtain ⟨t, ht, hwrote, hv⟩ := exec_writes (i := .concat ws rd) rfl (opWords_eq_widthOf_div ws) hxs hlen rfl
  exact ⟨t, ht, hwrote, fun j hj => hv ▸ packLanes_lane xs hj⟩

/-- Settles O52, lane by lane; nothing is used of the mixing function. -/
theorem mixexpChainsTheMixingFunction : Obligations.MixexpChainsTheMixingFunction := by
  intro ws rd s x hx
  obtain ⟨t, ht, hwrote, hv⟩ := exec_writes (i := .mixexp ws rd) rfl rfl hx rfl rfl
  refine ⟨t, ht, hwrote, fun j hj => ?_⟩
  rw [hv, packLanes_lane _ hj, mixChain_getD, opWords_eq_widthOf_div]
  rfl

/-- Settles O53, by the mask checks. -/
theorem spreadScattersAPulledWord : Obligations.SpreadScattersAPulledWord := by
  refine fun ws rd rs2 s => ⟨fun h0 => ?_, fun hlt => ?_, fun h0 hle x hx => ?_⟩
  · exact exec_faults (if_pos h0) (by decide)
  · exact exec_faults ((if_neg (by omega)).trans (if_pos hlt)) (by decide)
  · have hpass : faultTable (.spread ws rd rs2) s = 0 := (if_neg h0).trans (if_neg (Nat.not_lt.2 hle))
    obtain ⟨t, ht, hwrote, hv⟩ := exec_writes hpass rfl hx rfl rfl
    refine ⟨t, ht, hwrote, ?_⟩
    rw [hv, widthOf_eq_opBits]
    exact scattered_pdep_word (opBits_le ws) x (s.getW rs2)

end Sys2Proof.Claims

/-!
PROOFS. The statements about the Feistel stream (43_feistel.md): the iterations of a block are the classic two-round
network, and what a block leaves is settled by the cursor.
-/

namespace Sys2Proof.Claims

open Sys2Proof.Machine

/-! ### The pieces of a block (R132 to R134) -/

theorem extractLsb'_high (x : Word) : x.extractLsb' 32 32 = high x := by
  refine BitVec.eq_of_toNat_eq ?_
  rw [BitVec.extractLsb'_toNat, Nat.shiftRight_eq_div_pow, high, BitVec.toNat_ofNat]

theorem extractLsb'_low (x : Word) : x.extractLsb' 0 32 = low x := by
  refine BitVec.eq_of_toNat_eq ?_
  rw [BitVec.extractLsb'_toNat, Nat.shiftRight_zero, low, BitVec.toNat_ofNat]

/-- The mixed value is two rounds of the classic network: after them the halves are back in their places (R132). -/
theorem mixed_eq_twoRounds (F : Half → Half → Half) (state key : Word) : mixed F state key = twoRounds F state key := by
  simp only [mixed, twoRounds, classicRound, extractLsb'_high, extractLsb'_low]

theorem iterate_eq_iteration (F : Half → Half → Half) : iterate F = iteration F :=
  funext fun sk => congrArg (Prod.mk sk.2) (mixed_eq_twoRounds F sk.1 sk.2)

theorem iterateMany_eq_iteration (F : Half → Half → Half) (n : Nat) (sk : Word × Word) :
    iterateMany F n sk = (iteration F)^[n] sk := by
  induction n generalizing sk with
  | zero => rfl
  | succ n ih => rw [iterateMany, ih, iterate_eq_iteration, Function.iterate_succ_apply]

theorem blockIterations_eq (fctr : Word) (fidx : BitVec 6) :
    blockIterations fctr fidx = 1 + fctr.toNat / 2 ^ fidx.toNat % 16 := by
  rw [blockIterations, BitVec.extractLsb'_toNat, BitVec.toNat_ushiftRight, Nat.shiftRight_zero,
    Nat.shiftRight_eq_div_pow]

/-- The iterations of the next block, in the words of the statements (R133). -/
theorem iterateMany_blockIterations (F : Half → Half → Half) (s : State) :
    iterateMany F (blockIterations s.fctr s.fidx) (s.fstate, s.fkey) = afterIterations F s := by
  rw [iterateMany_eq_iteration, blockIterations_eq, afterIterations]

/-- The machine's round function is the spec's default, its rotation by arithmetic (R10, R134). -/
theorem feistelF_eq_referenceF : config.feistelF = referenceF := by
  funext x k
  refine congrArg (· ^^^ k) (BitVec.eq_of_toNat_eq ?_)
  have hlow : x.toNat / 2 ^ 25 < 2 ^ 7 := by omega
  have hhigh : x.toNat * 2 ^ 7 % 2 ^ 32 = 2 ^ 7 * (x.toNat % 2 ^ 25) := by omega
  have hsum : x.toNat * 2 ^ 7 % 2 ^ 32 + x.toNat / 2 ^ 25 < 2 ^ 32 := by omega
  rw [BitVec.toNat_ofNat, Nat.mod_eq_of_lt hsum, rotl32, BitVec.toNat_or, BitVec.toNat_shiftLeft,
    BitVec.toNat_ushiftRight, Nat.shiftLeft_eq, Nat.shiftRight_eq_div_pow, hhigh, Nat.two_pow_add_eq_or_of_lt hlow]

/-! ### The cursor (R133) -/

theorem cursor_wraps_iff (i : BitVec 6) : i + 4 = 0 ↔ (i.toNat + 4) % 64 = 0 := by bv_omega

theorem cursor_wraps_iff_last (i : BitVec 6) : (i.toNat + 4) % 64 = 0 ↔ i = 60 := by bv_omega

theorem advanceCursor_fkey (sk : Word × Word) (s : State) : (advanceCursor sk s).fkey = sk.2 := by
  unfold advanceCursor; split <;> rfl

theorem advanceCursor_of_wrap {s : State} (h : (s.fidx.toNat + 4) % 64 = 0) (sk : Word × Word) :
    advanceCursor sk s = s.setFeistel s.fctr sk.2 sk.1 0 := if_pos ((cursor_wraps_iff _).2 h)

theorem advanceCursor_of_no_wrap {s : State} (h : (s.fidx.toNat + 4) % 64 ≠ 0) (sk : Word × Word) :
    advanceCursor sk s = s.setFeistel sk.1 sk.2 s.fctr (s.fidx + 4) := if_neg (mt (cursor_wraps_iff _).1 h)

/-- What FBLK leaves from a seeded state, with the iterations in the words of the statements. -/
theorem nextBlock_seeded (F : Half → Half → Half) (rd : RegNum) {s : State} (hv : s.fvalid = true) :
    nextBlock F rd s =
      .next (writeResult rd ((afterIterations F s).1.setWidth 512) (advanceCursor (afterIterations F s) s)) := by
  rw [← iterateMany_blockIterations, nextBlock, if_neg (by simp [hv])]

theorem writeResult_advanceCursor_blocked (F : Half → Half → Half) (rd : RegNum) (s : State) :
    Blocked F rd s
      (writeResult rd ((afterIterations F s).1.setWidth 512) (advanceCursor (afterIterations F s) s)) := by
  have hdone : Completed (.fblk rd) s _ := completed_of_advanceCursor
    (writeResult_completed rfl ((afterIterations F s).1.setWidth 512) (advanceCursor (afterIterations F s) s))
  exact {
    result := writeResult_getW_same _ rd _
    others := fun q hq => hdone.registers q fun h => hq (Option.some.inj h).symm
    response := by simp [Responded, advanceCursor_responses]
    key := advanceCursor_fkey _ s
    cursor := by simp [advanceCursor_fidx]
    swapped := fun h => by rw [advanceCursor_of_wrap h]; exact ⟨rfl, rfl⟩
    unswapped := fun h => by rw [advanceCursor_of_no_wrap h]; exact ⟨rfl, rfl⟩
    valid := advanceCursor_fvalid _ s
    record := hdone.record Instr.noConfusion
    pulled := ⟨hdone.pulls.trans (BitVec.add_zero _).symm, hdone.source⟩
    port := hdone.port }

/-! ### Equal and zero Feistel states (R136, R138) -/

theorem afterIterations_of_feistelKept (F : Half → Half → Half) {s u : State} (h : FeistelKept s u) :
    afterIterations F u = afterIterations F s := by
  obtain ⟨hstate, hkey, hctr, hidx, -⟩ := h
  rw [afterIterations, afterIterations, hstate, hkey, hctr, hidx]

/-- Blocks from equal Feistel states leave equal Feistel states (R136). -/
theorem blocked_feistelKept {F : Half → Half → Half} {rd rd' : RegNum} {s t u v : State} (h : FeistelKept s u)
    (ht : Blocked F rd s t) (hv : Blocked F rd' u v) : FeistelKept t v := by
  have hafter := afterIterations_of_feistelKept F h
  obtain ⟨-, -, hctr, hidx, hvalid⟩ := h
  have hcursor : v.fidx = t.fidx := BitVec.eq_of_toNat_eq (by rw [hv.cursor, ht.cursor, hidx])
  have hkey : v.fkey = t.fkey := by rw [hv.key, ht.key, hafter]
  have hflag : v.fvalid = t.fvalid := by rw [hv.valid, ht.valid, hvalid]
  by_cases hwrap : (s.fidx.toNat + 4) % 64 = 0
  · obtain ⟨hstate, hcounter⟩ := ht.swapped hwrap
    obtain ⟨hstate', hcounter'⟩ := hv.swapped (hidx ▸ hwrap)
    exact ⟨by rw [hstate', hstate, hctr], hkey, by rw [hcounter', hcounter, hafter], hcursor, hflag⟩
  · obtain ⟨hstate, hcounter⟩ := ht.unswapped hwrap
    obtain ⟨hstate', hcounter'⟩ := hv.unswapped (hidx ▸ hwrap)
    exact ⟨by rw [hstate', hstate, hafter], hkey, by rw [hcounter', hcounter, hctr], hcursor, hflag⟩

/-- Zero under a zero key stays zero, because `F_ref(0, 0) = 0` (R138). -/
theorem iteration_referenceF_zero : iteration referenceF (0, 0) = (0, 0) := by decide

theorem afterIterations_zero {s : State} (hstate : s.fstate = 0) (hkey : s.fkey = 0) :
    afterIterations referenceF s = (0, 0) := by
  rw [afterIterations, hstate, hkey]
  exact Function.IsFixedPt.iterate iteration_referenceF_zero _

/-! ### The rounds as a bijection (R132) -/

/-- A word is its two halves. -/
def halves : Word ≃ Half × Half where
  toFun x := (high x, low x)
  invFun h := h.1 ++ h.2
  left_inv x := by
    simp only [← extractLsb'_high, ← extractLsb'_low]
    exact BitVec.extractLsb'_append_extractLsb'
  right_inv h := by
    simp only [← extractLsb'_high, ← extractLsb'_low]
    exact Prod.ext BitVec.extractLsb'_append_eq_left BitVec.extractLsb'_append_eq_right

/-- A round is undone by the same round with the halves exchanged (R132). -/
theorem classicRound_bijective (F : Half → Half → Half) (k : Half) :
    Function.Bijective fun h => classicRound F h k := by
  refine Function.bijective_iff_has_inverse.2 ⟨fun h => (h.2 ^^^ F h.1 k, h.1), fun h => ?_, fun h => ?_⟩ <;>
    simp [classicRound]

/-! ### The byte stream (R135) -/

theorem blockBytes_length (block : Word) : (blockBytes block).length = 8 := by simp [blockBytes]

theorem blockBytes_getElem? (block : Word) {k : Nat} (hk : k < 8) :
    (blockBytes block)[k]? = some (block.extractLsb' (8 * k) 8) := by
  simp [blockBytes, hk]

/-! ### The obligations of the Feistel stream -/

/-- Settles O54, by the command's three pulls. -/
theorem fseedTakesThreeWordsInOrder : Obligations.FseedTakesThreeWordsInOrder := by
  intro s a b c hwords
  have ha : s.Answers 3 := (answers_iff_upcoming s 3).2 (congrArg List.length hwords)
  have hx : exec .fseed s = .next (effect .fseed s [a, b, c] (afterPulls 3 s)) := hwords ▸ exec_completing rfl ha
  exact ⟨_, hx, rfl, rfl, rfl, rfl, rfl, fun _ => rfl, ⟨rfl, rfl, rfl⟩, ⟨rfl, rfl⟩, rfl, rfl, rfl, rfl⟩

/-- Settles O56, by the cases of the cursor. -/
theorem blockStructureHoldsForEveryRoundFunction : Obligations.BlockStructureHoldsForEveryRoundFunction :=
  fun F rd s hv => ⟨_, nextBlock_seeded F rd hv, writeResult_advanceCursor_blocked F rd s⟩

/-- Settles O55: FBLK is the block operation with the default round function. -/
theorem fblkEmitsTheNextBlock : Obligations.FblkEmitsTheNextBlock := by
  refine fun rd s => ⟨fun hv => ?_, fun hv => exec_faults (if_pos hv) (by decide)⟩
  rw [← feistelF_eq_referenceF]
  exact blockStructureHoldsForEveryRoundFunction config.feistelF rd s hv

/-- Settles O25: what a block leaves names nothing but the Feistel state. -/
theorem blocksDependOnTheFeistelStateAlone : Obligations.BlocksDependOnTheFeistelStateAlone := by
  intro rd rd' s u t hvalid hkept ht
  obtain ⟨t', ht', hblock⟩ := (fblkEmitsTheNextBlock rd s).1 hvalid
  obtain rfl := Host.Outcome.next.inj (ht'.symm.trans ht)
  have ⟨_, _, _, _, hflag⟩ := hkept
  obtain ⟨v, hv, hblock'⟩ := (fblkEmitsTheNextBlock rd' u).1 (hflag.trans hvalid)
  have hafter := afterIterations_of_feistelKept referenceF hkept
  refine ⟨v, hv, blocked_feistelKept hkept hblock hblock', ?_, fun c d hresp => ?_⟩
  · rw [hblock'.result, hblock.result, hafter]
  · obtain ⟨rfl, rfl⟩ := responded_unique hblock.response hresp
    exact hafter ▸ hblock'.response

/-- Settles O57: the rounds, the cut into halves and putting them together again are bijections each. -/
theorem feistelRoundsAreABijection : Obligations.FeistelRoundsAreABijection := by
  intro F key
  simp only [mixed_eq_twoRounds]
  exact halves.symm.bijective.comp <| (classicRound_bijective F (high key)).comp <|
    (classicRound_bijective F (low key)).comp halves.bijective

/-- Settles O58, by the block of a zero state. -/
theorem zeroStateEmitsZeroBlocks : Obligations.ZeroStateEmitsZeroBlocks := by
  intro rd s hv hstate hkey
  obtain ⟨t, ht, hblock⟩ := (fblkEmitsTheNextBlock rd s).1 hv
  obtain ⟨hresult, -, hresp, hnewkey, -, hswapped, hunswapped, -⟩ := hblock
  rw [cursor_wraps_iff_last] at hswapped
  rw [ne_eq, cursor_wraps_iff_last] at hunswapped
  rw [afterIterations_zero hstate hkey] at hresult hresp hnewkey hswapped hunswapped
  exact ⟨t, ht, hresult.trans (BitVec.setWidth_zero 512 64), hresp, hnewkey, hunswapped, hswapped⟩

/-- Settles O59, block by block. -/
theorem streamBytesAreLeastSignificantFirst : Obligations.StreamBytesAreLeastSignificantFirst := by
  intro blocks i k out hout hk
  induction blocks generalizing i with
  | nil => cases hout
  | cons block blocks ih =>
    have hlength := blockBytes_length block
    rw [List.flatMap_cons]
    cases i with
    | zero =>
      obtain rfl := Option.some.inj hout
      rw [Nat.mul_zero, Nat.zero_add, List.getElem?_append_left (by omega), blockBytes_getElem? block hk]
    | succ i =>
      have hskip : 8 * (i + 1) + k - 8 = 8 * i + k := by omega
      rw [List.getElem?_append_right (by omega), hlength, hskip]
      exact ih i hout

end Sys2Proof.Claims

/-!
PROOFS. The statements about the host-access and system commands (44_system.md): none of them pulls a word or can
fault, but for RDCSR, whose statement stands with those of the state.
-/

namespace Sys2Proof.Claims

open Sys2Proof.Machine

/-! ### A response alone, and a lane replaced (R152) -/

theorem answer_quiet (dout : Word) (s : State) : Quiet dout s (answer dout s) where
  registers _ := rfl
  response := rfl
  feistel := ⟨rfl, rfl, rfl, rfl, rfl⟩
  record := ⟨rfl, rfl, rfl⟩
  pulled := by simp [Pulled]
  port := ⟨rfl, rfl, rfl⟩

/-- The lanes of a value with lane `lane` replaced. -/
theorem setLane_lane (v : Wide) (lane j : LaneNum) (x : Word) :
    (setLane v lane x).extractLsb' (64 * j.val) 64 = if j = lane then x else v.extractLsb' (64 * j.val) 64 := by
  refine BitVec.eq_of_getLsbD_eq fun b hb => ?_
  rw [BitVec.getLsbD_extractLsb', decide_eq_true hb, Bool.true_and, setLane_getLsbD]
  by_cases hj : j = lane
  · subst hj
    have hin : 64 * j.val ≤ 64 * j.val + b ∧ 64 * j.val + b < 64 * j.val + 64 := by omega
    rw [if_pos hin, if_pos rfl, Nat.add_sub_cancel_left]
  · have hne : j.val ≠ lane.val := Fin.val_ne_of_ne hj
    have hout : ¬ (64 * lane.val ≤ 64 * j.val + b ∧ 64 * j.val + b < 64 * lane.val + 64) := by omega
    rw [if_neg hout, if_neg hj, BitVec.getLsbD_extractLsb', decide_eq_true hb, Bool.true_and]

/-- A lane by arithmetic on the whole register (R153). -/
theorem readLane_eq_ofNat (r : RegNum) (j : LaneNum) (s : State) :
    readLane r j s = BitVec.ofNat 64 ((s.getW r).toNat / 2 ^ (64 * j.val)) := by
  rw [← Nat.shiftRight_eq_div_pow]
  rfl

/-! ### The obligations of the system commands -/

/-- Settles O35: the write changes the named lane, and the response after it nothing else. -/
theorem wrlWritesOneLaneAndKeepsTheOthers : Obligations.WrlWritesOneLaneAndKeepsTheOthers := by
  intro rd lane s
  have hquiet := answer_quiet 0 (s.setW rd (setLane (s.getW rd) lane s.cmd.din))
  refine ⟨_, rfl, ?_, fun j hj => ?_, fun _ => State.setW_getW_other s _, hquiet.response, hquiet.feistel,
    hquiet.record, hquiet.pulled, hquiet.port⟩
  · rw [answer_getW, State.setW_getW_same, setLane_lane, if_pos rfl]
  · rw [answer_getW, State.setW_getW_same, setLane_lane, if_neg hj]

/-- Settles O33: the zero word is NOP's own encoding. -/
theorem nopChangesNothing : Obligations.NopChangesNothing :=
  ⟨decode_encode (i := .nop) (by decide), fun s => ⟨_, rfl, answer_quiet 0 s⟩⟩

/-- Settles O34: widening `DIN` leaves its number. -/
theorem ldzLoadsDataInZeroExtended : Obligations.LdzLoadsDataInZeroExtended := fun rd s =>
  ⟨_, rfl, writeResult_wrote rd _ s, (writeResult_getW_same s rd _).trans (BitVec.ofNat_toNat 512 s.cmd.din).symm⟩

/-- Settles O36: the lane by shifting is the lane by division. -/
theorem rdlReturnsALaneAndChangesNothing : Obligations.RdlReturnsALaneAndChangesNothing := fun rs1 lane s =>
  ⟨_, rfl, readLane_eq_ofNat rs1 lane s ▸ answer_quiet (readLane rs1 lane s) s⟩

/-- Settles O38: the record is cleared, and the response after it changes nothing. -/
theorem clrfClearsTheRecordOnly : Obligations.ClrfClearsTheRecordOnly := by
  intro s
  have hquiet := answer_quiet 0 (clearRecord s)
  exact ⟨_, rfl, clearRecord_flt s, clearRecord_cause s, clearRecord_ecmd s,
    hquiet.registers, hquiet.feistel, hquiet.pulled, hquiet.response, hquiet.port⟩

end Sys2Proof.Claims

/-!
PROOFS. The statements about faults (60_exceptions.md): R171's table decides how a command ends, and a fault touches the
record alone.
-/

namespace Sys2Proof.Claims

open Sys2Proof.Machine

/-- The codes of R167 that a command can answer with. -/
theorem faultCode_values (f : CmdFault) :
    faultCode f = 1 ∨ faultCode f = 2 ∨ faultCode f = 3 ∨ faultCode f = 5 ∨ faultCode f = 6 := by
  cases f <;> decide

/-- A presented word that does not decode takes IllegalCommand (R65, R171). -/
theorem runCommand_illegal {c : Command} {e : DecodeError} (h : decode c.cw = .error e) (s : State) :
    runCommand c s = .next (takeFault .illegalCommand (s.present c)) := by
  simp [runCommand, h]

/-- A completed command answers with status 0, whatever it pulled before (R55). -/
theorem effect_responded (i : Instr) (s : State) (xs : List Word) (n : Nat) :
    ∃ d, Responded 0 d s (effect i s xs (afterPulls n s)) := (effect_completed i s xs (afterPulls n s)).response

/-- Settles O12, by the end of a command in each row of R171's table. -/
theorem faultTableDecidesEveryCommand : Obligations.FaultTableDecidesEveryCommand := by
  refine ⟨fun i s => exec_faulted, fun i s hf ha => ?answered, fun s c es e ho h hd => ?illegal⟩
  case answered =>
    obtain ⟨d, hresp⟩ := effect_responded i s (upcoming (pullTable i s) s.source) (pullTable i s)
    exact ⟨_, d, exec_completing hf ha, hresp⟩
  case illegal =>
    have hstep : step s = runCommand c (s.setHost es) := step_of_event ho h
    exact ⟨_, hstep.trans (runCommand_illegal hd _), takeFault_faulted .illegalCommand _⟩

/-- Settles O13: of the three ways a command can end, only the fault answers with a code other than 0. -/
theorem faultingCommandChangesOnlyTheRecord : Obligations.FaultingCommandChangesOnlyTheRecord := by
  intro i s t c d h hresp hc
  obtain ⟨f, -, -, he⟩ | ⟨-, -, he⟩ | ⟨-, -, he⟩ := exec_outcome i s <;>
    obtain rfl := Host.Outcome.next.inj (h.symm.trans he)
  · obtain ⟨rfl, -⟩ := responded_unique (takeFault_faulted f s).response hresp
    exact ⟨faultCode_values f, takeFault_faulted f s⟩
  · obtain ⟨d', hs⟩ := effect_responded i s (upcoming (pullTable i s) s.source) (pullTable i s)
    exact absurd (responded_unique hs hresp).1.symm hc
  · exact absurd hresp (not_responded_of_kept rfl)

end Sys2Proof.Claims

/-!
PROOFS. The statements about reset (70_reset_and_hazards.md): what the reset event leaves, and the words an interrupted
command has lost.
-/

namespace Sys2Proof.Claims

open Sys2Proof.Machine

/-! ### The words of an interrupted command (R193, R199) -/

/-- The pulls the model counts are those of R199's table. -/
theorem pullCount_eq_pullTable (i : Instr) (s : State) : pullCount i s = pullTable i s := by
  cases hf : commandFault i s with
  | none =>
    rw [pullTable_of_success ((faultTable_eq_zero_iff i s).2 hf)]
    simp [pullCount, hf]
  | some f =>
    have hfault : faultTable i s ≠ 0 := (not_congr (faultTable_eq_zero_iff i s)).2 (by simp [hf])
    rw [pullTable_of_fault hfault]
    simp [pullCount, hf]

/-- What a command would pull does not turn on the host's schedule. -/
theorem pullTable_setHost (i : Instr) (s : State) (es : List HostEvent) :
    pullTable i (s.setHost es) = pullTable i s := by
  cases i <;> rfl

theorem abandonedPulls_of_decoded {c : Command} {i : Instr} (h : decode c.cw = .ok i) (k : Nat) (s : State) :
    abandonedPulls c k s = min k (pullTable i s) := by
  simp [abandonedPulls, h, pullCount_eq_pullTable]

theorem abandonedPulls_of_illegal {c : Command} {e : DecodeError} (h : decode c.cw = .error e) (k : Nat) (s : State) :
    abandonedPulls c k s = 0 := by
  simp [abandonedPulls, h]

theorem abandon_source (c : Command) (k : Nat) (s : State) :
    (abandon c k s).source = dropWords (abandonedPulls c k s) s.source := rfl

/-! ### The reset event -/

/-- Reset is served whether or not a command is outstanding (R190, R198). -/
theorem step_of_reset {s : State} {es : List HostEvent} (h : s.host = .reset :: es) :
    step s = .next (resetState (s.setHost es)) := by
  cases ho : s.outstanding with
  | false => exact step_of_event ho h
  | true => exact step_of_event_outstanding ho h

/-! ### The obligations of reset -/

/-- Settles O11: the step abandons the command, and the pulls it can have made are those of R199's table, or none. -/
theorem resetDuringACommandLosesItsWords : Obligations.ResetDuringACommandLosesItsWords := by
  intro s c k es ho h
  have hstep : step s = .next (abandon c k (s.setHost es)) := step_of_event ho h
  refine ⟨_, hstep, resetState_atReset _, rfl, rfl, fun i hd => ?decoded, fun e hd => ?illegal⟩
  case decoded =>
    rw [abandon_source, abandonedPulls_of_decoded hd, pullTable_setHost, State.setHost_source]
  case illegal =>
    rw [abandon_source, abandonedPulls_of_illegal hd, dropWords_zero, State.setHost_source]

/-- Settles O10: reset is served in either case, and leaves the source, the responses and the schedule. -/
theorem resetEventRestoresTheResetState : Obligations.ResetEventRestoresTheResetState :=
  fun _ _ h => ⟨_, step_of_reset h, resetState_atReset _, rfl, rfl, rfl⟩

end Sys2Proof.Claims
